-- ==== Sys2Proof/Word.lean ====
section
/-!
DEFINITION. The widths of the block's ports and fields (`00_scope.md` R5, `10_state.md` R27 to R31).
Every value is unsigned (R9); bit 0 is the least significant bit (R8).
-/
namespace Sys2Proof

/-- A byte of FRAME or BODY (R50). -/
abbrev Byte := BitVec 8

/-- An operand port, a combined code, a wire code or a logical type: 16 bits (R6, R31). -/
abbrev Half := BitVec 16

/-- The result port `r[16:0]` and the byte counts (R31, R136). -/
abbrev Count := BitVec 17

/-- The operation select `op[4:0]` (R90). -/
abbrev Select := BitVec 5

/-- One operation in format OP: the 53 bits of op, a, b, c, with op in bits 52 to 48 (R90). -/
abbrev OpWord := BitVec 53

end Sys2Proof
end

