-- ==== Sys2Proof/Syntax.lean ====
section
/-!
DEFINITION. The operations of the block, one constructor per row of `opcode_table.json`, what the caller presents to
have one evaluated, and the enumerations of `10_state.md` R32 to R34.
-/
namespace Sys2Proof

/-- The logical message types in the source's order, with the terminal sentinel last (R32). -/
inductive LogicalType
  | discoverList | encrypted | setKey | getKey | brgInfo | nwInfo | hfid | nwStats | slacParm
  | startAttenChar | attenChar | pkcsCert | mnbcSound | validate | slacMatch | slacUserData
  | attenProfile | ltMax
  deriving DecidableEq, Repr

/-- The entities the source names (R33). -/
inductive Entity
  | staCco | proxy | ccoCco | staSta | manufacture | vendor
  deriving DecidableEq, Repr

/-- The message roles (R34). -/
inductive Variant
  | req | cnf | ind | rsp
  deriving DecidableEq, Repr

/-- The operations. A constructor has the operand ports its operation uses, each of 16 bits (R91); an operand an
operation does not use is ignored (R31) and is no argument. FRAME and BODY are not operands on ports (R91). -/
inductive Instr
  /-- PACK a, b, c (R101) -/
  | pack (variant entity offset : Half)
  /-- UPV a (R102) -/
  | upv (code : Half)
  /-- UPE a (R103) -/
  | upe (code : Half)
  /-- UPO a (R104) -/
  | upo (code : Half)
  /-- LT2WC a (R112) -/
  | lt2wc (lt : Half)
  /-- WC2LT a (R116) -/
  | wc2lt (code : Half)
  /-- DISP a, b, c (R134) -/
  | disp (variant lt len : Half)
  /-- VERSEL a (R146) -/
  | versel (entity : Half)
  /-- ENCREQ a, b (R154) -/
  | encreq (lt len : Half)
  /-- ENCCNF a, b (R155) -/
  | enccnf (lt len : Half)
  /-- ENCIND a, b (R156) -/
  | encind (lt len : Half)
  /-- ENCRSP a, b (R157) -/
  | encrsp (lt len : Half)
  /-- SETHDR a, b, c (R151) -/
  | sethdr (variant entity lt : Half)
  /-- HDRWR a, b (R148); the version is the low byte of b -/
  | hdrwr (code version : Half)
  /-- DECLT (R161) -/
  | declt
  /-- DECVAR (R162) -/
  | decvar
  /-- DECENT (R163) -/
  | decent
  /-- DECOFF (R164) -/
  | decoff
  /-- COPY with `dp_n` = n (R138) -/
  | copy (n : Half)
  /-- NOP (R139) -/
  | nop
  deriving DecidableEq, Repr

/-- What stands on the input ports for one evaluation: an operation in format OP on the wrapper's ports (R31, R90), or
a select of the body-encoder multiplexer in format FN together with the port `dp_n` (R138, R139; log 4). -/
inductive Call
  | op (w : OpWord)
  | fn (sel : BitVec 1) (n : Half)
  deriving DecidableEq, Repr

end Sys2Proof
end

