-- ==== Sys2Proof/Decode.lean ====
section
/-!
DEFINITION. The decoder and, after it, the encoder (`30_encoding.md` R90, R91, R92).
-/
namespace Sys2Proof

/-- Why a call is no operation. -/
inductive DecodeError
  /-- A reserved value of the operation select (R92). -/
  | reservedSelect (sel : Select)
  deriving DecidableEq, Repr

/-- `op` is bits 52 to 48 (R90). -/
def opField (w : OpWord) : Select := w.extractLsb' 48 5

/-- `a` is bits 47 to 32 (R90). -/
def aField (w : OpWord) : Half := w.extractLsb' 32 16

/-- `b` is bits 31 to 16 (R90). -/
def bField (w : OpWord) : Half := w.extractLsb' 16 16

/-- `c` is bits 15 to 0 (R90). -/
def cField (w : OpWord) : Half := w.extractLsb' 0 16

/-- The table of R90, with the operands R91 gives each operation. -/
def decodeOp (sel : Select) (a b c : Half) : Except DecodeError Instr :=
  match sel.toNat with
  | 0x00 => .ok (.pack a b c)
  | 0x01 => .ok (.upv a)
  | 0x02 => .ok (.upe a)
  | 0x03 => .ok (.upo a)
  | 0x04 => .ok (.lt2wc a)
  | 0x05 => .ok (.wc2lt a)
  | 0x06 => .ok (.disp a b c)
  | 0x07 => .ok (.versel a)
  | 0x08 => .ok (.encreq a b)
  | 0x09 => .ok (.enccnf a b)
  | 0x0A => .ok (.encind a b)
  | 0x0B => .ok (.encrsp a b)
  | 0x0C => .ok (.sethdr a b c)
  | 0x0D => .ok (.hdrwr a b)
  | 0x10 => .ok .declt
  | 0x11 => .ok .decvar
  | 0x12 => .ok .decent
  | 0x13 => .ok .decoff
  | _ => .error (.reservedSelect sel)

/-- Format FN: 1 selects COPY, 0 selects NOP (R90, R138, R139). NOP uses no operand. -/
def decodeFn (sel : BitVec 1) (n : Half) : Instr :=
  if sel = 1 then .copy n else .nop

/-- The operation a call asks for. -/
def decode : Call → Except DecodeError Instr
  | .op w => decodeOp (opField w) (aField w) (bField w) (cField w)
  | .fn sel n => .ok (decodeFn sel n)

/-- The 53-bit word of (op, a, b, c): op at bit 48, a at bit 32, b at bit 16, c at bit 0 (R90). -/
def opWord (sel : Select) (a b c : Half) : OpWord :=
  (sel.setWidth 53 <<< 48) ||| (a.setWidth 53 <<< 32) ||| (b.setWidth 53 <<< 16) ||| c.setWidth 53

/-- The call that asks for an operation. Operands that the operation does not use are written as 0. -/
def encode : Instr → Call
  | .pack v e o => .op (opWord 0x00 v e o)
  | .upv k => .op (opWord 0x01 k 0 0)
  | .upe k => .op (opWord 0x02 k 0 0)
  | .upo k => .op (opWord 0x03 k 0 0)
  | .lt2wc t => .op (opWord 0x04 t 0 0)
  | .wc2lt k => .op (opWord 0x05 k 0 0)
  | .disp v t n => .op (opWord 0x06 v t n)
  | .versel e => .op (opWord 0x07 e 0 0)
  | .encreq t n => .op (opWord 0x08 t n 0)
  | .enccnf t n => .op (opWord 0x09 t n 0)
  | .encind t n => .op (opWord 0x0A t n 0)
  | .encrsp t n => .op (opWord 0x0B t n 0)
  | .sethdr v e t => .op (opWord 0x0C v e t)
  | .hdrwr k b => .op (opWord 0x0D k b 0)
  | .declt => .op (opWord 0x10 0 0 0)
  | .decvar => .op (opWord 0x11 0 0 0)
  | .decent => .op (opWord 0x12 0 0 0)
  | .decoff => .op (opWord 0x13 0 0 0)
  | .copy n => .fn 1 n
  | .nop => .fn 0 0

/-- The call of a table row's bits: format FN where the row has one byte, format OP otherwise. The bits of `w` are
numbered as the table numbers them; in format FN the operand port `dp_n` is read from bits 23 to 8 (log 4), in format OP
the padding above bit 52 is no wire of the block. -/
def callOfBits (nbits w : Nat) : Call :=
  if nbits ≤ 8 then .fn (BitVec.ofNat 1 w) (BitVec.ofNat 16 (w / 256)) else .op (BitVec.ofNat 53 w)

/-- The instruction the decoder reads from a table row's bits. -/
def decodeTableWord (nbits w : Nat) : Option Instr :=
  (decode (callOfBits nbits w)).toOption

end Sys2Proof
end

