-- ==== Sys2Proof/Config.lean ====
section
/-!
DEFINITION. What is fixed before the block exists (`00_scope.md` R6, `10_state.md` R23), the types of the two
constant tables' records, and the free values. The numbers of the spec's defaults are in `Machine/Rom.lean`.
-/
namespace Sys2Proof

/-- BYTE_ORDER (`20_memory.md` R52). -/
inductive ByteOrder
  | le
  | be
  deriving DecidableEq, Repr

/-- SETHDR_CODE_MODE (`43_frame_ops.md` R150). -/
inductive SetHdrMode
  | modeA
  | modeB
  | modeC
  deriving DecidableEq, Repr, Inhabited

/-- The function kinds of the body encoder (`10_state.md` R38, `42_dispatch.md` R131). -/
inductive FnKind
  | nop
  | copy
  deriving DecidableEq, Repr, Inhabited

/-- A BAND_ROM record (`10_state.md` R35, `30_encoding.md` R86). -/
structure BandRecord where
  anchor : BitVec 5
  origin : BitVec 11
  entity : BitVec 3
  deriving DecidableEq, Repr

/-- A DISPATCH_ROM record (`10_state.md` R37, `30_encoding.md` R87). -/
structure DispRecord where
  variant : BitVec 2
  lt : BitVec 5
  fn : FnKind
  deriving DecidableEq, Repr

/-- The four outputs of the dispatch unit U3 (`10_state.md` R29). -/
structure DispOut where
  /-- `dp_hit` -/
  hit : Bool
  /-- `dp_fn` -/
  fn : FnKind
  /-- `dp_n[15:0]` -/
  n : Half
  /-- `dp_total[16:0]` -/
  total : Count
  deriving DecidableEq, Repr, Inhabited

/-- The parameters the spec leaves as arguments of the model (R6). `WellFormed.lean` holds the constraints a legal
setting meets (R7). -/
structure Config where
  eStaCco : BitVec 3
  eProxy : BitVec 3
  eCcoCco : BitVec 3
  eStaSta : BitVec 3
  eManufacture : BitVec 3
  eVendor : BitVec 3
  protoVersion : Byte
  byteOrder : ByteOrder
  dispatchRom : List DispRecord
  setHdrMode : SetHdrMode
  deriving DecidableEq, Repr

/-- Free value: the mode of SETHDR where nobody has named one; R150 gives no default (log 6). -/
opaque Config.openSetHdrMode : SetHdrMode

/-- Free value: the byte at an address of a buffer nobody has written (R40; log 7). The first argument says which
unknown contents the buffer has. -/
opaque Config.unwrittenByte : Nat → Nat → Byte

/-- Free value: `r` at an evaluation that drives no operation (R39; log 2). -/
opaque Config.undrivenResult : Nat → Count

/-- Free value: `ill` at an evaluation that drives no operation (R39; log 2). -/
opaque Config.undrivenIll : Nat → Bool

/-- Free value: the dispatch unit's own ports at an evaluation that is not of DISP (R39, R91; log 3, 20). -/
opaque Config.undrivenDp : Nat → DispOut

end Sys2Proof
end

