-- ==== Sys2Proof/WellFormed.lean ====
section
/-!
DEFINITION. The constraints every legal parameter setting meets (`00_scope.md` R7, `42_dispatch.md` R133). No
operation is ill-formed: every operand port takes every value of its width (`40_pack_unpack.md` R100,
`60_exceptions.md` R170), and the widths are in the types; so the checks here are on the parameters.
-/
namespace Sys2Proof

/-- R7 (a): the six entity codes are pairwise distinct. Their type says that each is in 0 to 7. -/
def Config.entityCodesDistinct (k : Config) : Bool :=
  decide [k.eStaCco, k.eProxy, k.eCcoCco, k.eStaSta, k.eManufacture, k.eVendor].Nodup

/-- R7 (b). -/
def Config.staStaNotZero (k : Config) : Bool :=
  k.eStaSta != 0

/-- R7 (c). -/
def Config.versionNotZero (k : Config) : Bool :=
  k.protoVersion != 0

/-- R133 (a): the table has the entry (V_REQ, SLAC_PARM, FN_COPY), that is (0, 8, 1). -/
def Config.romHasSlacParmRequest (k : Config) : Bool :=
  k.dispatchRom.contains ⟨0, 8, .copy⟩

/-- R133 (b): no entry has the logical type VALIDATE (13). -/
def Config.romLacksValidate (k : Config) : Bool :=
  k.dispatchRom.all fun e => e.lt != 13

/-- R133 (c): every entry has the function kind FN_COPY. -/
def Config.romAllCopy (k : Config) : Bool :=
  k.dispatchRom.all fun e => e.fn == .copy

/-- R133 (d): every entry's logical type is in 0 to 16. The type of its variant says that it is in 0 to 3. -/
def Config.romInEnumeration (k : Config) : Bool :=
  k.dispatchRom.all fun e => decide (e.lt ≤ 16)

/-- R133 (e): at least one entry. A list is finite. -/
def Config.romNotEmpty (k : Config) : Bool :=
  !k.dispatchRom.isEmpty

/-- DISPATCH_ROM is well formed (R133). -/
def Config.romWellFormed (k : Config) : Bool :=
  k.romHasSlacParmRequest && k.romLacksValidate && k.romAllCopy && k.romInEnumeration && k.romNotEmpty

/-- A legal parameter setting (R7). -/
def Config.legal (k : Config) : Bool :=
  k.entityCodesDistinct && k.staStaNotZero && k.versionNotZero && k.romWellFormed

end Sys2Proof
end

