-- ==== Sys2Proof/Machine/Rom.lean ====
section
/-!
DEFINITION. The block's constants: enumeration codes, lengths, BAND_ROM, the record layouts of the two tables, and the
spec's reference parameter setting.
-/
namespace Sys2Proof.Machine
open Sys2Proof

/-- The ordinals, numbered from 0 in the listed order (R32, D5; log 14). -/
def ordinal : LogicalType → Half
  | .discoverList => 0
  | .encrypted => 1
  | .setKey => 2
  | .getKey => 3
  | .brgInfo => 4
  | .nwInfo => 5
  | .hfid => 6
  | .nwStats => 7
  | .slacParm => 8
  | .startAttenChar => 9
  | .attenChar => 10
  | .pkcsCert => 11
  | .mnbcSound => 12
  | .validate => 13
  | .slacMatch => 14
  | .slacUserData => 15
  | .attenProfile => 16
  | .ltMax => 17

/-- The code of a named entity (R33), a parameter. -/
def entityCode (k : Config) : Entity → BitVec 3
  | .staCco => k.eStaCco
  | .proxy => k.eProxy
  | .ccoCco => k.eCcoCco
  | .staSta => k.eStaSta
  | .manufacture => k.eManufacture
  | .vendor => k.eVendor

/-- The codes of the message roles (R34; request from the source, the others D7; log 14). -/
def variantCode : Variant → Half
  | .req => 0
  | .cnf => 1
  | .ind => 2
  | .rsp => 3

/-- The codes of the function kinds (R38). -/
def fnCode : FnKind → BitVec 1
  | .nop => 0
  | .copy => 1

/-- FIXED_HEADER_LEN: version, two code bytes, two sub-header bytes (R136, D9; log 14). -/
def fixedHeaderLen : Nat := 5

/-- The sub-header's bytes as the header writer leaves them, SUBHDR_LEN = 2 zeros (R50, R148). -/
def subHeaderZeros : List Byte := [0, 0]

/-- STATUS_OK (R151, D15; log 14). -/
def statusOk : Count := 0

/-- The wire offset of DISCOVER_LIST (R5, R36 (a)). -/
def discoverListOffset : BitVec 11 := 0x05

/-- BAND_ROM, in the order its records are tested, highest anchor first (R35). All have the entity E_STA_STA. -/
def bandRom (k : Config) : List BandRecord :=
  [⟨8, 0x19, k.eStaSta⟩, ⟨7, 0x12, k.eStaSta⟩, ⟨6, 0x10, k.eStaSta⟩, ⟨5, 0x0E, k.eStaSta⟩, ⟨4, 0x08, k.eStaSta⟩]

/-- A BAND_ROM record's 19 bits: anchor, origin, entity, anchor in the most significant bits (R86). -/
def bandBits (e : BandRecord) : BitVec 19 :=
  (e.anchor.setWidth 19 <<< 14) ||| (e.origin.setWidth 19 <<< 3) ||| e.entity.setWidth 19

/-- A DISPATCH_ROM record's 8 bits: variant, lt, fn, variant in the most significant bits (R87). -/
def dispBits (e : DispRecord) : BitVec 8 :=
  (e.variant.setWidth 8 <<< 6) ||| (e.lt.setWidth 8 <<< 1) ||| (fnCode e.fn).setWidth 8

/-- The record that 8 bits of DISPATCH_ROM hold (R87). -/
def dispOfBits (w : BitVec 8) : DispRecord :=
  ⟨w.extractLsb' 6 2, w.extractLsb' 1 5, if w.extractLsb' 0 1 = 1 then .copy else .nop⟩

/-- The spec's defaults (R6) and reference DISPATCH_ROM (R37), with SETHDR_CODE_MODE as given: it has no default. -/
def referenceConfig (mode : SetHdrMode) : Config where
  eStaCco := 0
  eProxy := 1
  eCcoCco := 2
  eStaSta := 3
  eManufacture := 4
  eVendor := 5
  protoVersion := 0x01
  byteOrder := .le
  dispatchRom := [dispOfBits 0x11]
  setHdrMode := mode

end Sys2Proof.Machine
end

