-- ==== Sys2Proof/Machine/State.lean ====
section
/-!
DEFINITION. The state of a model of the block with its frame unit: the caller's FRAME and BODY (`10_state.md` R26), the
parameters (R6), the ports' values (R27 to R31), and the model's own fields, each said to be so.
-/
namespace Sys2Proof.Machine
open Sys2Proof

/-- The bytes of a space that are known: (address, byte) pairs, addresses strictly rising. An address that is not
listed has no entry to be equal to, so the form is canonical. -/
abbrev Memory := List Host.Cell

/-- A buffer of the caller's: FRAME or BODY (R25, R50, R51). -/
structure Space where
  /-- Where the buffer lies in the caller's memory. Only the overlap of BODY and FRAME depends on it (R63). -/
  base : Nat
  /-- The buffer's size in bytes, fixed by the caller (R56). -/
  size : Nat
  /-- The model's own: which unknown contents the unlisted bytes have (R40; log 7). -/
  fill : Nat
  cells : Memory
  deriving DecidableEq, Repr

/-- One byte access on the memory interfaces (R30, R53). -/
inductive Access
  | frameRead (addr : Nat)
  | frameWrite (addr : Nat) (v : Byte)
  | bodyRead (addr : Nat)
  deriving DecidableEq, Repr

/-- The state. -/
structure State where
  /-- The parameters, fixed before the block exists (R6, R23). -/
  cfg : Config
  /-- The model's own: what the caller will drive on the input ports, one call an evaluation (R21; log 1). -/
  calls : List Call
  /-- The FRAME space (R50). -/
  frame : Space
  /-- A second agent uses the FRAME at this time (R58). -/
  frameShared : Bool
  /-- The BODY space (R51). -/
  body : Space
  /-- Output `r[16:0]` of the last evaluation (R31). -/
  r : Count
  /-- Output `ill` of the last evaluation (R22, R92). -/
  ill : Bool
  /-- Outputs `dp_hit`, `dp_fn`, `dp_n`, `dp_total` of the last evaluation (R29). -/
  dp : DispOut
  /-- The byte accesses of the last evaluation, in order (R54; log 13). -/
  bus : List Access
  /-- The model's own: counts evaluations, for the free values (log 2). -/
  tick : Nat
  deriving DecidableEq, Repr

/-- The block raises no exception, trap or fault (R170): there is no fault reason. -/
inductive Fault
  deriving DecidableEq, Repr

/-- Why the model gives an operation no meaning. Apart from `notModelled`, these are the cases of R185 in which the spec
asks a model to refuse; all are safe: the hardware does something in each, and nothing is claimed of it. -/
inductive Refusal
  /-- Safe. For an arm of `exec` without a meaning; no arm raises it. -/
  | notModelled (mnemonic : String)
  /-- Safe. Raised by every FRAME access outside the size the caller fixed (R56). -/
  | outsideFrame
  /-- Safe. Raised by the encode operations and COPY, hit or miss, when the BODY is shorter than the length they are given,
  and by a BODY read at or above the number of bytes the caller supplied (R185). -/
  | bodyTooShort
  /-- Safe. Raised by the encode operations and COPY when the body they are given lies in part inside FRAME (R63). -/
  | bodyOverlapsFrame
  /-- Safe. Raised by every FRAME access while a second agent uses the FRAME (R58). -/
  | frameShared
  deriving DecidableEq, Repr

/-- The block as it is from the first moment it exists (R39, R190): default parameters (log 5, 6), nothing driven, the
outputs unspecified (log 2), nothing known of FRAME and BODY (log 7, 8, 10). -/
def State.reset : State where
  cfg := referenceConfig Config.openSetHdrMode
  calls := []
  frame := { base := 0, size := 131072, fill := 0, cells := [] }
  frameShared := false
  body := { base := 131072, size := 65536, fill := 1, cells := [] }
  r := Config.undrivenResult 0
  ill := Config.undrivenIll 0
  dp := Config.undrivenDp 0
  bus := []
  tick := 1

end Sys2Proof.Machine
end

