-- ==== Sys2Proof/Machine/Flags.lean ====
section
/-!
DEFINITION. The status outputs (`10_state.md` R22). Neither is a stored flag: each is a function of the operands of one
evaluation.
-/
namespace Sys2Proof.Machine
open Sys2Proof

/-- `ill`: 1 exactly when the operation select holds a reserved value, 0x0E, 0x0F or 0x14 to 0x1F (R22, R92). -/
def illFlag (sel : Select) : Bool :=
  sel == 0x0E || sel == 0x0F || decide (0x14 ≤ sel)

/-- One comparator pair of the dispatch unit: all 16 bits of each operand against the zero-extended fields (R134). -/
def entryMatches (variant lt : Half) (e : DispRecord) : Bool :=
  variant == e.variant.setWidth 16 && lt == e.lt.setWidth 16

/-- The lowest-index entry that matches (R134). -/
def firstMatch (rom : List DispRecord) (variant lt : Half) : Option DispRecord :=
  rom.find? (entryMatches variant lt)

/-- `dp_hit`: some entry matches (R134). -/
def dpHitFlag (rom : List DispRecord) (variant lt : Half) : Bool :=
  (firstMatch rom variant lt).isSome

end Sys2Proof.Machine
end

