-- ==== Sys2Proof/Machine/Memory.lean ====
section
/-!
DEFINITION. Reading and writing one byte of a space, and the canonical form of its contents.
-/
namespace Sys2Proof.Machine
open Sys2Proof

/-- The known byte at an address, if there is one. -/
def Memory.lookup : Memory → Nat → Option Byte
  | [], _ => none
  | (b, w) :: rest, a => if a = b then some w else Memory.lookup rest a

/-- Store one byte, keeping the addresses rising. -/
def Memory.write : Memory → Nat → Byte → Memory
  | [], a, v => [(a, v)]
  | (b, w) :: rest, a, v =>
    if a < b then (a, v) :: (b, w) :: rest
    else if a = b then (a, v) :: rest
    else (b, w) :: Memory.write rest a v

/-- Store bytes at consecutive addresses, in ascending order. -/
def Memory.writeAll : Memory → Nat → List Byte → Memory
  | m, _, [] => m
  | m, a, v :: vs => Memory.writeAll (m.write a v) (a + 1) vs

/-- Addresses strictly rising. -/
def Memory.rising : Memory → Bool
  | [] => true
  | [_] => true
  | (a, _) :: (b, w) :: rest => decide (a < b) && Memory.rising ((b, w) :: rest)

/-- The canonical form of a space's contents: addresses strictly rising, all inside the space. -/
def Memory.wf (size : Nat) (m : Memory) : Bool :=
  m.rising && m.all fun c => decide (c.1 < size)

/-- The space's contents have the canonical form. -/
def Space.wf (sp : Space) : Bool :=
  sp.cells.wf sp.size

/-- The byte a space holds at an address: what was put there, or a free value where nobody wrote (R40; log 7). -/
def Space.read (sp : Space) (a : Nat) : Byte :=
  (sp.cells.lookup a).getD (Config.unwrittenByte sp.fill a)

/-- The space after one byte is stored. -/
def Space.write (sp : Space) (a : Nat) (v : Byte) : Space :=
  { sp with cells := sp.cells.write a v }

/-- The space after bytes are stored at consecutive addresses. -/
def Space.writeAll (sp : Space) (a : Nat) (vs : List Byte) : Space :=
  { sp with cells := sp.cells.writeAll a vs }

end Sys2Proof.Machine
end

