-- ==== Sys2Proof/Machine/Operands.lean ====
section
/-!
DEFINITION. How fields are assembled from an operand and taken out of a code (`30_encoding.md` R73), and the two bytes
of a code in the frame (`00_scope.md` R12, `20_memory.md` R52).
-/
namespace Sys2Proof.Machine
open Sys2Proof

/-- `pk_variant & 0b11` (R73). -/
def variantMask (v : Half) : Half := v &&& 0b11

/-- `pk_entity & 0b111` (R73). -/
def entityMask (e : Half) : Half := e &&& 0b111

/-- `pk_offset & 0x7FF` (R73). -/
def offsetMask (o : Half) : Half := o &&& 0x7FF

/-- `(entity << 13) | (offset << 2)`, a wire code: format CODE with the variant field 0 (R71). -/
def wireCode (e o : Half) : Half := (e <<< 13) ||| (o <<< 2)

/-- `up_variant = code & 0b11` (R73). -/
def upVariant (k : Half) : BitVec 2 := (k &&& 0b11).setWidth 2

/-- `up_entity = code >> 13`, unmasked (R73). -/
def upEntity (k : Half) : BitVec 3 := (k >>> 13).setWidth 3

/-- `up_offset = (code >> 2) & 0x7FF` (R73). -/
def upOffset (k : Half) : BitVec 11 := ((k >>> 2) &&& 0x7FF).setWidth 11

/-- The low byte of an operand; the high byte is ignored (HDRWR's b, R91). -/
def lowByte (x : Half) : Byte := x.setWidth 8

/-- The high byte of a code. -/
def highByte (x : Half) : Byte := (x >>> 8).setWidth 8

/-- `CodeBytes(c)`: the two bytes of a code in ascending address order (R12). -/
def codeBytes : ByteOrder → Half → List Byte
  | .le, k => [lowByte k, highByte k]
  | .be, k => [highByte k, lowByte k]

/-- `CodeOf([b0, b1])`, the inverse of `CodeBytes` (R12). -/
def codeOf : ByteOrder → Byte → Byte → Half
  | .le, b0, b1 => (b1.setWidth 16 <<< 8) ||| b0.setWidth 16
  | .be, b0, b1 => (b0.setWidth 16 <<< 8) ||| b1.setWidth 16

/-- A result on the port `r`: the bits above its width are 0 (R31). -/
def onResultPort {w : Nat} (x : BitVec w) : Count := x.setWidth 17

end Sys2Proof.Machine
end

