-- ==== Sys2Proof/Machine/Ops.lean ====
section
/-!
DEFINITION. The named operations over the state: byte accesses to FRAME and BODY (`20_memory.md` R50 to R56), how an
evaluation begins and how it answers on the output ports (`10_state.md` R31). There is no operation that takes an
exception or returns from one: the block raises none and has no trap entry and no return (`60_exceptions.md` R170, R174,
R175). The one thing near it, a reserved operation select, is `State.illegal`.
-/
namespace Sys2Proof.Machine
open Sys2Proof

/-- An evaluation begins: no access has been made. -/
def State.start (s : State) : State :=
  { s with bus := [] }

/-- An operation of the wrapper answers: `r` is its result, `ill` is 0 (R31, R92). No operation but DISP gives the dispatch
unit's own ports a value (R91), so they are unspecified (R39; log 3, 20). -/
def State.answer (r : Count) (s : State) : State :=
  { s with r := r, ill := false, dp := Config.undrivenDp s.tick, tick := s.tick + 1 }

/-- DISP answers: `r` is `dp_total` and the dispatch unit's ports are its outputs (R91, R134). -/
def State.answerDp (d : DispOut) (s : State) : State :=
  { s with r := d.total, ill := false, dp := d, tick := s.tick + 1 }

/-- A reserved operation select: `ill` is 1, `r` is 0, no access is made (R92). -/
def State.illegal (sel : Select) (s : State) : State :=
  { s.start with r := 0, ill := illFlag sel, dp := Config.undrivenDp s.tick, tick := s.tick + 1 }

/-- Nothing is driven: every output is unspecified and no access is made (R39; log 2). -/
def State.idle (s : State) : State :=
  { s.start with
    r := Config.undrivenResult s.tick, ill := Config.undrivenIll s.tick, dp := Config.undrivenDp s.tick,
    tick := s.tick + 1 }

/-- A byte access is recorded (R54; log 13). -/
def State.noted (x : Access) (s : State) : State :=
  { s with bus := s.bus ++ [x] }

/-- One FRAME byte is stored. -/
def State.stored (a : Nat) (v : Byte) (s : State) : State :=
  { s with frame := s.frame.write a v, bus := s.bus ++ [.frameWrite a v] }

/-- Why an access to a FRAME address is given no meaning, if it is not (R56, R58). -/
def frameRefusal (a : Nat) (s : State) : Option Refusal :=
  if s.frameShared then some .frameShared
  else if a < s.frame.size then none
  else some .outsideFrame

/-- Write one FRAME byte (R53). -/
def frameWrite (a : Nat) (v : Byte) (s : State) : Except Refusal State :=
  match frameRefusal a s with
  | some e => .error e
  | none => .ok (s.stored a v)

/-- Read one FRAME byte (R53). -/
def frameRead (a : Nat) (s : State) : Except Refusal (Byte × State) :=
  match frameRefusal a s with
  | some e => .error e
  | none => .ok (s.frame.read a, s.noted (.frameRead a))

/-- `BodyRead(i)` (R12, R51); the body must reach that far (R185). -/
def bodyRead (i : Nat) (s : State) : Except Refusal (Byte × State) :=
  if i < s.body.size then .ok (s.body.read i, s.noted (.bodyRead i))
  else .error .bodyTooShort

/-- `MemWrite(addr, n, v)`: byte writes in ascending address order (R12, R53). -/
def memWrite : Nat → List Byte → State → Except Refusal State
  | _, [], s => .ok s
  | a, v :: vs, s => do
    let s ← frameWrite a v s
    memWrite (a + 1) vs s

/-- `MemRead(1, 2)` and `CodeOf`: the stored combined code (R160). -/
def readCode (s : State) : Except Refusal (Half × State) := do
  let (b0, s) ← frameRead 1 s
  let (b1, s) ← frameRead 2 s
  return (codeOf s.cfg.byteOrder b0 b1, s)

/-- The loop of COPY: `count` bytes from BODY byte `i` on (R138). -/
def copyFrom : Nat → Nat → State → Except Refusal State
  | _, 0, s => .ok s
  | i, count + 1, s => do
    let (v, s) ← bodyRead i s
    let s ← memWrite (fixedHeaderLen + i) [v] s
    copyFrom (i + 1) count s

/-- Some byte of a body of `len` bytes lies inside the caller's frame buffer (R63). -/
def State.bodyOverlaps (len : Nat) (s : State) : Bool :=
  decide (0 < len) && decide (s.body.base < s.frame.base + s.frame.size) && decide (s.frame.base < s.body.base + len)

/-- The body of an operation that is given a body length, hit or miss: one that overlaps its frame is refused (R63), and so
is one shorter than the length given (R185; log 10, 11). -/
def requireBody (len : Nat) (s : State) : Except Refusal Unit :=
  if s.bodyOverlaps len then .error .bodyOverlapsFrame
  else if s.body.size < len then .error .bodyTooShort
  else .ok ()

/-- An operation's outcome: a next state, or a refusal by name. Never a fault (R170). -/
def conclude (e : Except Refusal State) : Host.Outcome State Fault Refusal :=
  match e with
  | .ok s => .next s
  | .error r => .refused r

end Sys2Proof.Machine
end

