-- ==== Sys2Proof/Machine/BodyEncoder.lean ====
section
/-!
DEFINITION. Unit U3: DISP and the two function kinds COPY and NOP (`42_dispatch.md`).
-/
namespace Sys2Proof.Machine
open Sys2Proof

/-- The dispatch unit's outputs (R134, R136): on a miss the multiplexer selects FN_NOP (R131). -/
def dispatchLookup (k : Config) (variant lt len : Half) : DispOut :=
  let fn := match firstMatch k.dispatchRom variant lt with
    | some e => e.fn
    | none => .nop
  let n := if fn = .copy then len else 0
  { hit := dpHitFlag k.dispatchRom variant lt, fn := fn, n := n,
    total := BitVec.ofNat 17 fixedHeaderLen + n.setWidth 17 }

/-- The selected function kind runs: COPY of `n` bytes (R138) or NOP, which makes no access (R139). -/
def runBodyEncoder (fn : FnKind) (n : Half) (s : State) : Except Refusal State :=
  match fn with
  | .copy => copyFrom 0 n.toNat s
  | .nop => .ok s

/-- DISP (R134). -/
def execDisp (variant lt len : Half) (s : State) : Host.Outcome State Fault Refusal :=
  .next (s.start.answerDp (dispatchLookup s.cfg variant lt len))

/-- COPY (R138), alone: the count is answered on `r` (log 4). -/
def execCopy (n : Half) (s : State) : Host.Outcome State Fault Refusal :=
  conclude do
    requireBody n.toNat s
    let s ← runBodyEncoder .copy n s.start
    return s.answer (onResultPort n)

/-- NOP (R139), alone: 0 is answered on `r` (log 4). -/
def execNop (s : State) : Host.Outcome State Fault Refusal :=
  conclude do
    let s ← runBodyEncoder .nop 0 s.start
    return s.answer 0

end Sys2Proof.Machine
end

