-- ==== Sys2Proof/Machine/PackUnpack.lean ====
section
/-!
DEFINITION. Unit U1: PACK, UPV, UPE, UPO (`40_pack_unpack.md`). They reach no memory (R100).
-/
namespace Sys2Proof.Machine
open Sys2Proof

/-- `pk_code` (R101): mask, shift, or. -/
def packCode (variant entity offset : Half) : Half :=
  (entityMask entity <<< 13) ||| (offsetMask offset <<< 2) ||| variantMask variant

/-- PACK (R101). -/
def execPack (variant entity offset : Half) (s : State) : Host.Outcome State Fault Refusal :=
  .next (s.start.answer (onResultPort (packCode variant entity offset)))

/-- UPV (R102). -/
def execUpv (code : Half) (s : State) : Host.Outcome State Fault Refusal :=
  .next (s.start.answer (onResultPort (upVariant code)))

/-- UPE (R103). -/
def execUpe (code : Half) (s : State) : Host.Outcome State Fault Refusal :=
  .next (s.start.answer (onResultPort (upEntity code)))

/-- UPO (R104). -/
def execUpo (code : Half) (s : State) : Host.Outcome State Fault Refusal :=
  .next (s.start.answer (onResultPort (upOffset code)))

end Sys2Proof.Machine
end

