-- ==== Sys2Proof/Machine/Translate.lean ====
section
/-!
DEFINITION. Unit U2: LT2WC and WC2LT (`41_translate.md`), by the comparators of R111 over BAND_ROM. They reach no memory.
-/
namespace Sys2Proof.Machine
open Sys2Proof

/-- Comparators F2 to F6: the first band whose anchor is at most the logical type (R111). -/
def bandOfType (k : Config) (lt : Half) : Option BandRecord :=
  (bandRom k).find? fun e => decide (e.anchor.setWidth 16 ≤ lt)

/-- Comparators I2 to I6: the first band whose origin is at most the offset (R111). -/
def bandOfOffset (k : Config) (o : BitVec 11) : Option BandRecord :=
  (bandRom k).find? fun e => decide (e.origin ≤ o)

/-- `fw_wc` (R112). -/
def lt2wcCode (k : Config) (lt : Half) : Half :=
  if ordinal .ltMax ≤ lt then 0
  else if lt = ordinal .discoverList then wireCode (k.eStaCco.setWidth 16) (discoverListOffset.setWidth 16)
  else
    match bandOfType k lt with
    | some e => wireCode (e.entity.setWidth 16) (e.origin.setWidth 16 + (lt - e.anchor.setWidth 16))
    | none => wireCode (k.eStaSta.setWidth 16) lt

/-- `iv_lt` (R116); the variant bits are ignored and nothing is clamped (log 15). -/
def wc2ltType (k : Config) (code : Half) : Half :=
  let e := upEntity code
  let o := upOffset code
  if e = k.eStaCco ∧ o = discoverListOffset then ordinal .discoverList
  else if e = k.eStaSta then
    match bandOfOffset k o with
    | some band => band.anchor.setWidth 16 + (o - band.origin).setWidth 16
    | none => o.setWidth 16
  else ordinal .ltMax

/-- MKCODE: the combined code of a variant and a logical type (R96, R113). -/
def mkCode (k : Config) (variant lt : Half) : Half :=
  lt2wcCode k lt ||| variantMask variant

/-- LT2ENT: the entity the forward translation derives (R96). -/
def lt2ent (k : Config) (lt : Half) : BitVec 3 :=
  upEntity (lt2wcCode k lt)

/-- LT2OFF: the wire offset the forward translation derives (R96). -/
def lt2off (k : Config) (lt : Half) : BitVec 11 :=
  upOffset (lt2wcCode k lt)

/-- LT2WC (R112). -/
def execLt2wc (lt : Half) (s : State) : Host.Outcome State Fault Refusal :=
  .next (s.start.answer (onResultPort (lt2wcCode s.cfg lt)))

/-- WC2LT (R116). -/
def execWc2lt (code : Half) (s : State) : Host.Outcome State Fault Refusal :=
  .next (s.start.answer (onResultPort (wc2ltType s.cfg code)))

end Sys2Proof.Machine
end

