-- ==== Sys2Proof/Machine/FrameOps.lean ====
section
/-!
DEFINITION. Unit U4: the version gate, the header writer and the frame-level operations (`43_frame_ops.md`).
-/
namespace Sys2Proof.Machine
open Sys2Proof

/-- The version byte for an entity: the whole operand is compared (R146). -/
def versionFor (k : Config) (entity : Half) : Byte :=
  if entity = k.eVendor.setWidth 16 ∨ entity = k.eManufacture.setWidth 16 then 0 else k.protoVersion

/-- The header writer: its five writes, in order (R148). -/
def writeHeader (code : Half) (version : Byte) (s : State) : Except Refusal State := do
  let s ← memWrite 0 [version] s
  let s ← memWrite 1 (codeBytes s.cfg.byteOrder code) s
  let s ← memWrite 3 subHeaderZeros s
  let s ← memWrite 3 [0] s
  memWrite 4 [0] s

/-- The code SETHDR writes, by SETHDR_CODE_MODE (R150). -/
def setHdrCode (k : Config) (variant entity lt : Half) : Half :=
  match k.setHdrMode with
  | .modeA => mkCode k variant lt
  | .modeB => packCode variant entity ((lt2off k lt).setWidth 16)
  | .modeC => packCode variant entity lt

/-- ENC(v, lt, len): header, lookup, body (R153). Only the count is answered: a miss shows in nothing else (R91, R206), so the
dispatch unit's own ports are free after it (log 20). -/
def encodeFrame (v : Variant) (lt len : Half) (s : State) : Except Refusal State := do
  requireBody len.toNat s
  let code := mkCode s.cfg (variantCode v) lt
  let s ← writeHeader code (versionFor s.cfg ((upEntity code).setWidth 16)) s.start
  let d := dispatchLookup s.cfg (variantCode v) lt len
  let s ← runBodyEncoder d.fn d.n s
  return s.answer d.total

/-- The decode operations: read the stored code, answer a function of it, write nothing (R160). -/
def decodeFrame (f : Config → Half → Count) (s : State) : Except Refusal State := do
  let (code, s) ← readCode s.start
  return s.answer (f s.cfg code)

/-- VERSEL (R146). -/
def execVersel (entity : Half) (s : State) : Host.Outcome State Fault Refusal :=
  .next (s.start.answer (onResultPort (versionFor s.cfg entity)))

/-- ENCREQ (R154). -/
def execEncreq (lt len : Half) (s : State) : Host.Outcome State Fault Refusal :=
  conclude (encodeFrame .req lt len s)

/-- ENCCNF (R155). -/
def execEnccnf (lt len : Half) (s : State) : Host.Outcome State Fault Refusal :=
  conclude (encodeFrame .cnf lt len s)

/-- ENCIND (R156). -/
def execEncind (lt len : Half) (s : State) : Host.Outcome State Fault Refusal :=
  conclude (encodeFrame .ind lt len s)

/-- ENCRSP (R157). -/
def execEncrsp (lt len : Half) (s : State) : Host.Outcome State Fault Refusal :=
  conclude (encodeFrame .rsp lt len s)

/-- SETHDR (R151): the version is gated on the supplied entity; the status is always STATUS_OK. -/
def execSethdr (variant entity lt : Half) (s : State) : Host.Outcome State Fault Refusal :=
  conclude do
    let s ← writeHeader (setHdrCode s.cfg variant entity lt) (versionFor s.cfg entity) s.start
    return s.answer statusOk

/-- HDRWR (R148): the version is b[7:0], ungated; r is 0. -/
def execHdrwr (code version : Half) (s : State) : Host.Outcome State Fault Refusal :=
  conclude do
    let s ← writeHeader code (lowByte version) s.start
    return s.answer 0

/-- DECLT (R161). -/
def execDeclt (s : State) : Host.Outcome State Fault Refusal :=
  conclude (decodeFrame (fun k code => onResultPort (wc2ltType k code)) s)

/-- DECVAR (R162). -/
def execDecvar (s : State) : Host.Outcome State Fault Refusal :=
  conclude (decodeFrame (fun _ code => onResultPort (upVariant code)) s)

/-- DECENT (R163). -/
def execDecent (s : State) : Host.Outcome State Fault Refusal :=
  conclude (decodeFrame (fun _ code => onResultPort (upEntity code)) s)

/-- DECOFF (R164). -/
def execDecoff (s : State) : Host.Outcome State Fault Refusal :=
  conclude (decodeFrame (fun _ code => onResultPort (upOffset code)) s)

end Sys2Proof.Machine
end

