-- ==== Sys2Proof/Machine/Dispatch.lean ====
section
/-!
DEFINITION. One arm per operation.
-/
namespace Sys2Proof.Machine
open Sys2Proof

def exec (i : Instr) (s : State) : Host.Outcome State Fault Refusal :=
  match i with
  | .pack variant entity offset => Sys2Proof.Machine.execPack variant entity offset s
  | .upv code => Sys2Proof.Machine.execUpv code s
  | .upe code => Sys2Proof.Machine.execUpe code s
  | .upo code => Sys2Proof.Machine.execUpo code s
  | .lt2wc lt => Sys2Proof.Machine.execLt2wc lt s
  | .wc2lt code => Sys2Proof.Machine.execWc2lt code s
  | .disp variant lt len => Sys2Proof.Machine.execDisp variant lt len s
  | .versel entity => Sys2Proof.Machine.execVersel entity s
  | .encreq lt len => Sys2Proof.Machine.execEncreq lt len s
  | .enccnf lt len => Sys2Proof.Machine.execEnccnf lt len s
  | .encind lt len => Sys2Proof.Machine.execEncind lt len s
  | .encrsp lt len => Sys2Proof.Machine.execEncrsp lt len s
  | .sethdr variant entity lt => Sys2Proof.Machine.execSethdr variant entity lt s
  | .hdrwr code version => Sys2Proof.Machine.execHdrwr code version s
  | .declt => Sys2Proof.Machine.execDeclt s
  | .decvar => Sys2Proof.Machine.execDecvar s
  | .decent => Sys2Proof.Machine.execDecent s
  | .decoff => Sys2Proof.Machine.execDecoff s
  | .copy n => Sys2Proof.Machine.execCopy n s
  | .nop => Sys2Proof.Machine.execNop s

end Sys2Proof.Machine
end

