-- ==== Sys2Proof/Machine/Evaluate.lean ====
section
/-!
DEFINITION. What one evaluation does with the caller's next call: take it, decode it, run it.
-/
namespace Sys2Proof.Machine
open Sys2Proof

/-- Evaluate one call: the operation it decodes to, or the answer to a reserved select (R92). -/
def evaluateCall (c : Call) (s : State) : Host.Outcome State Fault Refusal :=
  match decode c with
  | .ok i => exec i s
  | .error (.reservedSelect sel) => .next (s.illegal sel)

/-- Evaluate the next call; with none, nothing is driven (R39). -/
def evaluate (s : State) : Host.Outcome State Fault Refusal :=
  match s.calls with
  | [] => .next s.idle
  | c :: rest => evaluateCall c { s with calls := rest }

end Sys2Proof.Machine
end

