-- ==== Sys2Proof/Machine/Step.lean ====
section
/-!
DEFINITION. One step is one evaluation (`00_scope.md` R13): the caller's next call is decoded and run.
-/
namespace Sys2Proof.Machine
open Sys2Proof

/-- One evaluation. -/
def step (s : State) : Host.Outcome State Fault Refusal :=
  evaluate s

/-- `s` with the call of a table row's bits next on the input ports. -/
def State.withFetchWord (s : State) (nbits w : Nat) : State :=
  { s with calls := callOfBits nbits w :: s.calls }

end Sys2Proof.Machine
end

