-- ==== Sys2Proof/Safety.lean ====
section
/-!
DEFINITION. What the caller must provide before an operation (`70_reset_and_hazards.md` R191, `60_exceptions.md` R185),
what a good state is, and the words the statements use for what an operation leaves alone.
-/
namespace Sys2Proof.Machine
open Sys2Proof

/-- The FRAME has at least `n` bytes and one agent uses it (R56, R58, R191 (a)). -/
abbrev State.FrameReady (n : Nat) (s : State) : Prop :=
  s.frameShared = false ∧ n ≤ s.frame.size

/-- A body of `n` bytes is disjoint from the FRAME (R63, R191 (b)). -/
abbrev State.BodyDisjoint (n : Nat) (s : State) : Prop :=
  s.bodyOverlaps n = false

/-- A BODY of `n` valid bytes, disjoint from the FRAME (R185, R191 (b)). -/
abbrev State.BodyReady (n : Nat) (s : State) : Prop :=
  s.BodyDisjoint n ∧ n ≤ s.body.size

/-- COPY of `n` bytes can run: the body is there, and the FRAME has room for it (R138). -/
abbrev State.CopyReady (n : Nat) (s : State) : Prop :=
  s.BodyReady n ∧ (n = 0 ∨ s.FrameReady (fixedHeaderLen + n))

/-- An encode operation can run: the body is there, hit or miss (R185), and the FRAME has room for the bytes that are
written, which are the header's always and the body's where the dispatch hits (R56). -/
abbrev State.EncodeReady (v : Variant) (lt len : Half) (s : State) : Prop :=
  s.BodyReady len.toNat ∧ s.FrameReady fixedHeaderLen ∧
    ((dispatchLookup s.cfg (variantCode v) lt len).fn = .copy → s.FrameReady (fixedHeaderLen + len.toNat))

/-- What the caller provides for each operation (R191); the operations of U1, U2 and U3 and VERSEL need nothing. -/
def CallerReady (s : State) : Instr → Prop
  | .pack _ _ _ => True
  | .upv _ => True
  | .upe _ => True
  | .upo _ => True
  | .lt2wc _ => True
  | .wc2lt _ => True
  | .disp _ _ _ => True
  | .versel _ => True
  | .encreq lt len => s.EncodeReady .req lt len
  | .enccnf lt len => s.EncodeReady .cnf lt len
  | .encind lt len => s.EncodeReady .ind lt len
  | .encrsp lt len => s.EncodeReady .rsp lt len
  | .sethdr _ _ _ => s.FrameReady fixedHeaderLen
  | .hdrwr _ _ => s.FrameReady fixedHeaderLen
  | .declt => s.FrameReady 3
  | .decvar => s.FrameReady 3
  | .decent => s.FrameReady 3
  | .decoff => s.FrameReady 3
  | .copy n => s.CopyReady n.toNat
  | .nop => True

/-- An access lies inside the space it is made to. -/
def Access.inside (s : State) : Access → Bool
  | .frameRead a => decide (a < s.frame.size)
  | .frameWrite a _ => decide (a < s.frame.size)
  | .bodyRead a => decide (a < s.body.size)

/-- An access's address fits its port: 17 bits for FRAME, 16 for BODY (R30). -/
def Access.fitsPorts : Access → Bool
  | .frameRead a => decide (a < 131072)
  | .frameWrite a _ => decide (a < 131072)
  | .bodyRead a => decide (a < 65536)

/-- The good states: a legal parameter setting, both spaces in canonical form, and no access of the last evaluation
outside its space. -/
def State.good (s : State) : Bool :=
  s.cfg.legal && s.frame.wf && s.body.wf && s.bus.all (Access.inside s)

/-- Everything but the FRAME's contents, the output ports, the access record and the count of evaluations is as before:
the parameters, the calls to come, the BODY, and the FRAME's place, size and unknown contents. -/
abbrev KeepsRest (s t : State) : Prop :=
  t.cfg = s.cfg ∧ t.calls = s.calls ∧ t.frameShared = s.frameShared ∧ t.body = s.body ∧
    t.frame.base = s.frame.base ∧ t.frame.size = s.frame.size ∧ t.frame.fill = s.frame.fill

/-- Every FRAME byte outside the addresses from `lo` up to, not including, `hi` reads as before. -/
abbrev FrameKeptOutside (lo hi : Nat) (s t : State) : Prop :=
  ∀ a, a < lo ∨ hi ≤ a → t.frame.read a = s.frame.read a

/-- Every FRAME byte reads as before. -/
abbrev FrameKept (s t : State) : Prop :=
  ∀ a, t.frame.read a = s.frame.read a

/-- An operation of the wrapper that makes no memory access completes with `r`: `ill` is 0 and nothing else that the spec
defines changes. -/
abbrev CompletesWith (i : Instr) (s : State) (r : Nat) : Prop :=
  ∃ t, exec i s = .next t ∧ t.r.toNat = r ∧ t.ill = false ∧ t.bus = [] ∧ FrameKept s t ∧ KeepsRest s t

/-- A FRAME access that reads the code completes with `r` (R160): bytes 1 and 2 are read, nothing is written. -/
abbrev CompletesReadingCode (i : Instr) (s : State) (r : Nat) : Prop :=
  ∃ t, exec i s = .next t ∧ t.r.toNat = r ∧ t.ill = false ∧ t.bus = [.frameRead 1, .frameRead 2] ∧
    FrameKept s t ∧ KeepsRest s t

/-- The encode operation of a message role: ENC of R96. -/
def encodeInstr : Variant → Half → Half → Instr
  | .req, lt, len => .encreq lt len
  | .cnf, lt, len => .enccnf lt len
  | .ind, lt, len => .encind lt len
  | .rsp, lt, len => .encrsp lt len

/-- The offset of a logical type from 1 to 16 as a number (R112). -/
def offsetNumber (lt : Nat) : Nat :=
  if 8 ≤ lt then 0x19 + (lt - 8) else if 7 ≤ lt then 0x12 + (lt - 7) else if 6 ≤ lt then 0x10 + (lt - 6)
  else if 5 ≤ lt then 0x0E + (lt - 5) else if 4 ≤ lt then 0x08 + (lt - 4) else lt

/-- The forward rule as numbers (R112). -/
def wireNumber (k : Config) (lt : Nat) : Nat :=
  if 17 ≤ lt then 0
  else if lt = 0 then k.eStaCco.toNat * 8192 + 0x05 * 4
  else k.eStaSta.toNat * 8192 + offsetNumber lt * 4

/-- The band test of the inverse rule, by offset (R116, R117). -/
def bandNumber (o : Nat) : Nat :=
  if 0x19 ≤ o then 8 + (o - 0x19) else if 0x12 ≤ o then 7 + (o - 0x12) else if 0x10 ≤ o then 6 + (o - 0x10)
  else if 0x0E ≤ o then 5 + (o - 0x0E) else if 0x08 ≤ o then 4 + (o - 0x08) else o

/-- The inverse rule as numbers (R116). -/
def typeNumber (k : Config) (code : Nat) : Nat :=
  if code / 8192 = k.eStaCco.toNat ∧ code / 4 % 2048 = 0x05 then 0
  else if code / 8192 = k.eStaSta.toNat then bandNumber (code / 4 % 2048)
  else 17

/-- The version gate as numbers (R146): the whole operand is compared. -/
def versionNumber (k : Config) (entity : Nat) : Nat :=
  if entity = k.eVendor.toNat ∨ entity = k.eManufacture.toNat then 0 else k.protoVersion.toNat

/-- The code SETHDR writes as a number, by SETHDR_CODE_MODE (R150): the translated type's code with the variant; the same
with the supplied entity in the place of the derived one; the supplied entity with the raw type as the offset. -/
def setHdrNumber (k : Config) (variant entity lt : Nat) : Nat :=
  match k.setHdrMode with
  | .modeA => wireNumber k lt + variant % 4
  | .modeB => entity % 8 * 8192 + wireNumber k lt % 8192 + variant % 4
  | .modeC => entity % 8 * 8192 + lt % 2048 * 4 + variant % 4

/-- A table entry answers a (variant, logical type) pair: both are equal, unmasked (R134). -/
abbrev EntryAnswers (variant lt : Half) (e : DispRecord) : Prop :=
  variant.toNat = e.variant.toNat ∧ lt.toNat = e.lt.toNat

/-- The combined code that FRAME bytes 1 and 2 hold, as a number (R12, R52). -/
def storedCode (s : State) : Nat :=
  match s.cfg.byteOrder with
  | .le => (s.frame.read 1).toNat + 256 * (s.frame.read 2).toNat
  | .be => 256 * (s.frame.read 1).toNat + (s.frame.read 2).toNat

/-- The FRAME begins with this version, this code and two zero bytes (R50). -/
abbrev HoldsHeader (t : State) (version code : Nat) : Prop :=
  (t.frame.read 0).toNat = version ∧ storedCode t = code ∧ t.frame.read 3 = 0 ∧ t.frame.read 4 = 0

/-- The five writes of the header writer as byte writes, in order (R54, R148). -/
def headerAccesses (k : Config) (code : Half) (version : Byte) : List Access :=
  let bytes := match k.byteOrder with
    | .le => [.frameWrite 1 (code.setWidth 8), .frameWrite 2 ((code >>> 8).setWidth 8)]
    | .be => [.frameWrite 1 ((code >>> 8).setWidth 8), .frameWrite 2 (code.setWidth 8)]
  [.frameWrite 0 version] ++ bytes ++ [.frameWrite 3 0, .frameWrite 4 0] ++ [.frameWrite 3 0] ++ [.frameWrite 4 0]

/-- The accesses of COPY, in order (R54, R138). -/
def copyAccesses (s : State) (n : Nat) : List Access :=
  (List.range n).flatMap fun i => [.bodyRead i, .frameWrite (5 + i) (s.body.read i)]

/-- The FRAME addresses an operation may write: from the first up to, not including, the second (R54). -/
def writeRange (s : State) : Instr → Nat × Nat
  | .pack _ _ _ => (0, 0)
  | .upv _ => (0, 0)
  | .upe _ => (0, 0)
  | .upo _ => (0, 0)
  | .lt2wc _ => (0, 0)
  | .wc2lt _ => (0, 0)
  | .disp _ _ _ => (0, 0)
  | .versel _ => (0, 0)
  | .encreq lt len => (0, (dispatchLookup s.cfg 0 lt len).total.toNat)
  | .enccnf lt len => (0, (dispatchLookup s.cfg 1 lt len).total.toNat)
  | .encind lt len => (0, (dispatchLookup s.cfg 2 lt len).total.toNat)
  | .encrsp lt len => (0, (dispatchLookup s.cfg 3 lt len).total.toNat)
  | .sethdr _ _ _ => (0, 5)
  | .hdrwr _ _ => (0, 5)
  | .declt => (0, 0)
  | .decvar => (0, 0)
  | .decent => (0, 0)
  | .decoff => (0, 0)
  | .copy n => (5, 5 + n.toNat)
  | .nop => (0, 0)

/-- The operations of U1, U2 and U3 that reach no memory (R25, R90). -/
def ofPureUnits : Instr → Bool
  | .pack _ _ _ => true
  | .upv _ => true
  | .upe _ => true
  | .upo _ => true
  | .lt2wc _ => true
  | .wc2lt _ => true
  | .disp _ _ _ => true
  | .versel _ => false
  | .encreq _ _ => false
  | .enccnf _ _ => false
  | .encind _ _ => false
  | .encrsp _ _ => false
  | .sethdr _ _ _ => false
  | .hdrwr _ _ => false
  | .declt => false
  | .decvar => false
  | .decent => false
  | .decoff => false
  | .copy _ => false
  | .nop => false

end Sys2Proof.Machine
end

