-- ==== Sys2Proof/Certificates/Slice0/Obligations.lean ====
section
/-!
DEFINITION. The statements for the provers.
-/
open Sys2Proof Sys2Proof.Machine

/-! ### Unit U1 -/

/-- PACK masks its operands to 2, 3 and 11 bits and joins them; it completes for all operands (R101). -/
def Obligations.PackMasksAndJoinsFields : Prop :=
  ∀ (v e o : Half) (s : State),
    decode (.op (opWord 0x00 v e o)) = .ok (.pack v e o) ∧
    CompletesWith (.pack v e o) s (e.toNat % 8 * 8192 + o.toNat % 2048 * 4 + v.toNat % 4)

/-- UPV answers bits 1 to 0 of the code; b and c are ignored (R102). -/
def Obligations.UpvTakesVariant : Prop :=
  ∀ (k b c : Half) (s : State),
    decode (.op (opWord 0x01 k b c)) = .ok (.upv k) ∧ CompletesWith (.upv k) s (k.toNat % 4)

/-- UPE answers bits 15 to 13 of the code (R103). -/
def Obligations.UpeTakesEntity : Prop :=
  ∀ (k b c : Half) (s : State),
    decode (.op (opWord 0x02 k b c)) = .ok (.upe k) ∧ CompletesWith (.upe k) s (k.toNat / 8192)

/-- UPO answers bits 12 to 2 of the code (R104). -/
def Obligations.UpoTakesOffset : Prop :=
  ∀ (k b c : Half) (s : State),
    decode (.op (opWord 0x03 k b c)) = .ok (.upo k) ∧ CompletesWith (.upo k) s (k.toNat / 4 % 2048)

/-- Unpacking what PACK made gives the masked operands, packing what was unpacked gives the code, and PACK is not
injective (R105; (d) and (e) are the spec's inference). -/
def Obligations.PackUnpackLaws : Prop :=
  (∀ v e o : Half,
    upVariant (packCode v e o) = v.setWidth 2 ∧ upEntity (packCode v e o) = e.setWidth 3 ∧
      upOffset (packCode v e o) = o.setWidth 11) ∧
  (∀ k : Half, packCode ((upVariant k).setWidth 16) ((upEntity k).setWidth 16) ((upOffset k).setWidth 16) = k) ∧
  (∀ v e o v' e' o' : Half, v.toNat % 4 = v'.toNat % 4 → e.toNat % 8 = e'.toNat % 8 →
    o.toNat % 2048 = o'.toNat % 2048 → packCode v e o = packCode v' e' o') ∧
  ∃ v v' e o : Half, v ≠ v' ∧ packCode v e o = packCode v' e o

/-! ### Unit U2 -/

/-- LT2WC follows the comparators F0 to F6, for every parameter setting (R112). -/
def Obligations.Lt2wcFollowsForwardRule : Prop :=
  ∀ (lt b c : Half) (s : State),
    decode (.op (opWord 0x04 lt b c)) = .ok (.lt2wc lt) ∧
    CompletesWith (.lt2wc lt) s (wireNumber s.cfg lt.toNat)

/-- WC2LT follows the comparators I0 to I6, without a clamp, for every parameter setting (R116). -/
def Obligations.Wc2ltFollowsInverseRule : Prop :=
  ∀ (k b c : Half) (s : State),
    decode (.op (opWord 0x05 k b c)) = .ok (.wc2lt k) ∧
    CompletesWith (.wc2lt k) s (typeNumber s.cfg k.toNat)

/-- The wire code with a variant filled in is PACK of the derived entity and offset, not PACK of the wire code (R113;
the equality and the misuse of R201 are the spec's inference). -/
def Obligations.CombinedCodeIsPackOfDerivedFields : Prop :=
  (∀ (k : Config) (v lt : Half),
    mkCode k v lt = packCode v ((lt2ent k lt).setWidth 16) ((lt2off k lt).setWidth 16)) ∧
  packCode 0 3 0x6064 = 0x6190 ∧ ∀ m, mkCode (referenceConfig m) 0 8 = 0x6064

/-- Every defined logical type comes back from its combined code, with every variant (R118). -/
def Obligations.ForwardThenInverseIsIdentity : Prop :=
  ∀ (k : Config) (lt v : Half), lt.toNat ≤ 16 → wc2ltType k (mkCode k v lt) = lt

/-- The result of the inverse under E_STA_STA for each of the 2048 offsets, and which offsets are canonical (R117, the
spec's inference). -/
def Obligations.InverseUnderStaStaByOffset : Prop :=
  ∀ (k : Config) (o : BitVec 11), k.legal = true →
    let code := wireCode (k.eStaSta.setWidth 16) (o.setWidth 16)
    (wc2ltType k code).toNat = bandNumber o.toNat ∧
    (lt2wcCode k (wc2ltType k code) = code ↔
      (1 ≤ o.toNat ∧ o.toNat ≤ 3) ∨ o.toNat = 0x08 ∨ o.toNat = 0x0E ∨ o.toNat = 0x10 ∨ o.toNat = 0x12 ∨
        (0x19 ≤ o.toNat ∧ o.toNat ≤ 0x21))

/-- A code whose type is defined goes back to its wire code only when that is one of the 17 canonical ones (R119, the
spec's inference). -/
def Obligations.OnlyCanonicalCodesGoBack : Prop :=
  ∀ (k : Config) (code : Half), (wc2ltType k code).toNat ≤ 16 →
    (lt2wcCode k (wc2ltType k code) = (code &&& 0xFFFC) ↔
      ∃ lt : Half, lt.toNat ≤ 16 ∧ lt2wcCode k lt = (code &&& 0xFFFC))

/-- An out-of-range logical type gives the code v & 3, which decodes to LT_MAX, provided E_STA_STA is not 0 (R120); with
E_STA_STA = 0 it would decode to DISCOVER_LIST (R211). Both are the spec's inferences. -/
def Obligations.OutOfRangeTypeDecodesToSentinel : Prop :=
  ∀ (k : Config) (lt v : Half), 17 ≤ lt.toNat →
    lt2wcCode k lt = 0 ∧ (mkCode k v lt).toNat = v.toNat % 4 ∧
    (k.eStaSta ≠ 0 → wc2ltType k (mkCode k v lt) = 17) ∧
    (k.eStaSta = 0 → wc2ltType k (mkCode k v lt) = 0)

/-- Every sum and difference of the block is exact: as natural numbers, without a wrap, the offset that the forward rule derives,
its wire code, the type that the inverse rule recovers and the length returned are the numbers of the rules, at most 0x21, 65535,
2030 and 65540 (R11, the spec's inference). Only an out-of-range type gives the zero wire code (R112). -/
def Obligations.ResultsStayInRange : Prop :=
  (∀ (k : Config) (lt : Half),
    (lt2off k lt).toNat = (if 17 ≤ lt.toNat then 0 else if lt = 0 then 0x05 else offsetNumber lt.toNat) ∧
    (lt2off k lt).toNat ≤ 0x21 ∧
    (lt2wcCode k lt).toNat = wireNumber k lt.toNat ∧ wireNumber k lt.toNat ≤ 65535 ∧
    (lt2wcCode k lt = 0 ↔ 17 ≤ lt.toNat)) ∧
  (∀ (k : Config) (code : Half), (wc2ltType k code).toNat = typeNumber k code.toNat ∧ typeNumber k code.toNat ≤ 2030) ∧
  (∀ (k : Config) (v lt len : Half),
    (dispatchLookup k v lt len).total.toNat = 5 + (dispatchLookup k v lt len).n.toNat ∧
    (dispatchLookup k v lt len).total.toNat ≤ 65540 ∧
    ((dispatchLookup k v lt len).fn = .copy → (dispatchLookup k v lt len).total.toNat = 5 + len.toNat)) ∧
  ∀ k : Config, k.legal = true → ∃ code : Half, (wc2ltType k code).toNat = 2030

/-- What the reserved values of a code do: an entity code without a name passes through PACK and UPE, has no logical type and is not
gated; no entity but E_STA_CCO and E_STA_STA has a logical type; E_STA_CCO has one at offset 5 only; the gated entities are
E_VENDOR and E_MANUFACTURE (R93). -/
def Obligations.ReservedCodeValuesAreDefined : Prop :=
  ∀ (k : Config) (code : Half), k.legal = true →
    (∀ v e o : Half, e.toNat < 8 →
      e.setWidth 3 ∉ [k.eStaCco, k.eProxy, k.eCcoCco, k.eStaSta, k.eManufacture, k.eVendor] →
      (packCode v e o).toNat / 8192 = e.toNat ∧ (upEntity (packCode v e o)).toNat = e.toNat ∧
        wc2ltType k (packCode v e o) = 17 ∧ versionFor k e = k.protoVersion) ∧
    (upEntity code).toNat = code.toNat / 8192 ∧
    (upEntity code ≠ k.eStaCco → upEntity code ≠ k.eStaSta → wc2ltType k code = 17) ∧
    (upEntity code = k.eStaCco → (upOffset code = 5 → wc2ltType k code = 0) ∧
      (upOffset code ≠ 5 → wc2ltType k code = 17)) ∧
    (upEntity code = k.eVendor ∨ upEntity code = k.eManufacture ↔ versionFor k ((upEntity code).setWidth 16) = 0)

/-- The code table: the wire code of every logical type under the default entity codes, with each variant (R74, which the
spec infers from its rules). -/
def Obligations.WireCodesOfAllLogicalTypes : Prop :=
  ∀ (m : SetHdrMode) (v : Variant),
    (List.range 18).map (fun t => (mkCode (referenceConfig m) (variantCode v) (BitVec.ofNat 16 t)).toNat) =
      [0x0014, 0x6004, 0x6008, 0x600C, 0x6020, 0x6038, 0x6040, 0x6048, 0x6064, 0x6068, 0x606C, 0x6070, 0x6074, 0x6078,
        0x607C, 0x6080, 0x6084, 0x0000].map (· + (variantCode v).toNat)

/-! ### Unit U3 -/

/-- DISP answers by the first exact match; a miss selects FN_NOP; the total is 5 plus the bytes to write (R134, R136). -/
def Obligations.DispAnswersFirstExactMatch : Prop :=
  ∀ (v lt len : Half) (s : State),
    decode (.op (opWord 0x06 v lt len)) = .ok (.disp v lt len) ∧
    ∃ t, exec (.disp v lt len) s = .next t ∧
      (t.dp.hit = true ↔ ∃ e ∈ s.cfg.dispatchRom, EntryAnswers v lt e) ∧
      (∀ pre e post, s.cfg.dispatchRom = pre ++ e :: post → (∀ d ∈ pre, ¬ EntryAnswers v lt d) →
        EntryAnswers v lt e → t.dp.fn = e.fn) ∧
      (t.dp.hit = false → t.dp.fn = .nop) ∧
      t.dp.n.toNat = (if t.dp.fn = .copy then len.toNat else 0) ∧
      t.dp.total.toNat = 5 + t.dp.n.toNat ∧
      t.r = t.dp.total ∧ t.ill = false ∧ t.bus = [] ∧ FrameKept s t ∧ KeepsRest s t ∧
      (4 ≤ v.toNat → t.dp.hit = false) ∧
      (s.cfg.legal = true →
        (t.dp.hit = true ↔ t.dp.fn = .copy) ∧ (17 ≤ lt.toNat → t.dp.hit = false) ∧
          (lt = 13 → t.dp.hit = false))

/-- What is known of every legal table: (request, SLAC_PARM) hits, VALIDATE, an out-of-range type and an out-of-range
variant miss, the outputs depend on the table alone, and no other pair is settled (R141, the spec's inference). -/
def Obligations.DispatchKnownAndOpenPairs : Prop :=
  (∀ (k : Config) (v lt len : Half), k.legal = true →
    ((dispatchLookup k 0 8 len).hit = true ∧ (dispatchLookup k 0 8 len).total.toNat = 5 + len.toNat) ∧
    (lt = 13 ∨ 17 ≤ lt.toNat ∨ 4 ≤ v.toNat →
      (dispatchLookup k v lt len).hit = false ∧ (dispatchLookup k v lt len).total = 5)) ∧
  (∀ (k k' : Config) (v lt len : Half), k.dispatchRom = k'.dispatchRom →
    dispatchLookup k v lt len = dispatchLookup k' v lt len) ∧
  ∀ v lt len : Half, v.toNat ≤ 3 → lt.toNat ≤ 16 → lt ≠ 13 → ¬ (v = 0 ∧ lt = 8) →
    (∃ k : Config, k.legal = true ∧ (dispatchLookup k v lt len).hit = true) ∧
    ∃ k : Config, k.legal = true ∧ (dispatchLookup k v lt len).hit = false

/-- COPY writes the body's n bytes to FRAME from address 5 on, in ascending order, and nothing else (R138). That it answers
n on `r` and takes n from a call of its own is the model's choice (log 4). -/
def Obligations.CopyMovesBodyVerbatim : Prop :=
  ∀ (n : Half) (s : State), s.CopyReady n.toNat →
    decode (.fn 1 n) = .ok (.copy n) ∧
    ∃ t, exec (.copy n) s = .next t ∧
      (∀ i < n.toNat, t.frame.read (5 + i) = s.body.read i) ∧ FrameKeptOutside 5 (5 + n.toNat) s t ∧
      t.bus = copyAccesses s n.toNat ∧ t.r.toNat = n.toNat ∧ t.ill = false ∧ KeepsRest s t

/-- NOP makes no access and answers 0 (R139). That it answers on `r` is the model's choice (log 4). -/
def Obligations.NopTouchesNothing : Prop :=
  ∀ (n : Half) (s : State), decode (.fn 0 n) = .ok .nop ∧ CompletesWith .nop s 0

/-! ### Unit U4 -/

/-- VERSEL answers 0 for E_VENDOR and E_MANUFACTURE and PROTO_VERSION otherwise, comparing all 16 bits (R146). -/
def Obligations.VerselGatesOnEntity : Prop :=
  ∀ (e b c : Half) (s : State),
    decode (.op (opWord 0x07 e b c)) = .ok (.versel e) ∧
    CompletesWith (.versel e) s (versionNumber s.cfg e.toNat) ∧
    (s.cfg.legal = true → (versionNumber s.cfg e.toNat = 0 ↔
      e.toNat = s.cfg.eVendor.toNat ∨ e.toNat = s.cfg.eManufacture.toNat))

/-- HDRWR writes the version it is given, the code in BYTE_ORDER and two zeros, by its five writes in order, and nothing
else; r is 0 (R148). -/
def Obligations.HdrwrWritesFiveBytes : Prop :=
  ∀ (code b c : Half) (s : State), s.FrameReady 5 →
    decode (.op (opWord 0x0D code b c)) = .ok (.hdrwr code b) ∧
    ∃ t, exec (.hdrwr code b) s = .next t ∧
      HoldsHeader t (b.toNat % 256) code.toNat ∧ FrameKeptOutside 0 5 s t ∧
      t.bus = headerAccesses s.cfg code (b.setWidth 8) ∧ t.r = 0 ∧ t.ill = false ∧ KeepsRest s t

/-- SETHDR writes, by the header writer's five writes, a header whose version is gated on the supplied entity and whose code SETHDR_CODE_MODE forms from the
three operands; the status is 0 (R150, R151). -/
def Obligations.SethdrWritesHeaderByMode : Prop :=
  ∀ (v e lt : Half) (s : State), s.FrameReady 5 →
    decode (.op (opWord 0x0C v e lt)) = .ok (.sethdr v e lt) ∧
    let version := versionNumber s.cfg e.toNat
    let code := setHdrNumber s.cfg v.toNat e.toNat lt.toNat
    ∃ t, exec (.sethdr v e lt) s = .next t ∧
      HoldsHeader t version code ∧ FrameKeptOutside 0 5 s t ∧
      t.bus = headerAccesses s.cfg (BitVec.ofNat 16 code) (BitVec.ofNat 8 version) ∧
      t.r = 0 ∧ t.ill = false ∧ KeepsRest s t

/-- ENCREQ, ENCCNF, ENCIND and ENCRSP write the header of the derived code by the header writer's five writes, then copy the
body on a dispatch hit, leave everything from address 5 on a miss, and answer 5 plus the bytes copied (R153 to R157). -/
def Obligations.EncodeWritesHeaderAndBody : Prop :=
  ∀ (v : Variant) (lt len c : Half) (s : State), s.EncodeReady v lt len →
    decode (.op (opWord (0x08 + (variantCode v).setWidth 5) lt len c)) = .ok (encodeInstr v lt len) ∧
    let d := dispatchLookup s.cfg (variantCode v) lt len
    let code := wireNumber s.cfg lt.toNat + (variantCode v).toNat
    let version := versionNumber s.cfg (code / 8192)
    ∃ t, exec (encodeInstr v lt len) s = .next t ∧
      HoldsHeader t version code ∧
      t.bus = headerAccesses s.cfg (BitVec.ofNat 16 code) (BitVec.ofNat 8 version) ++
        (if d.fn = .copy then copyAccesses s len.toNat else []) ∧
      (d.fn = .copy → t.r.toNat = 5 + len.toNat ∧ (∀ i < len.toNat, t.frame.read (5 + i) = s.body.read i) ∧
        FrameKeptOutside 0 (5 + len.toNat) s t) ∧
      (d.fn = .nop → t.r = 5 ∧ FrameKeptOutside 0 5 s t) ∧
      t.ill = false ∧ KeepsRest s t ∧
      (s.cfg.legal = true →
        (lt.toNat ≤ 16 → version = s.cfg.protoVersion.toNat) ∧
        (17 ≤ lt.toNat → code = (variantCode v).toNat ∧ d.fn = .nop))

/-- The accesses an encode operation makes, in order, and their number: 7 byte writes for the header, and on a hit a read
and a write for each body byte (R54, R213). -/
def Obligations.EncodeAccessesInOrder : Prop :=
  ∀ (v : Variant) (lt len : Half) (s : State), s.EncodeReady v lt len →
    let d := dispatchLookup s.cfg (variantCode v) lt len
    let code := mkCode s.cfg (variantCode v) lt
    ∃ t, exec (encodeInstr v lt len) s = .next t ∧
      t.bus = headerAccesses s.cfg code (versionFor s.cfg ((upEntity code).setWidth 16)) ++
        (if d.fn = .copy then copyAccesses s len.toNat else []) ∧
      t.bus.length = 7 + (if d.fn = .copy then 2 * len.toNat else 0)

/-- DECLT reads bytes 1 and 2 in BYTE_ORDER and answers the inverse translation of the code (R160, R161). -/
def Obligations.DecltReadsLogicalType : Prop :=
  ∀ (a b c : Half) (s : State), s.FrameReady 3 →
    decode (.op (opWord 0x10 a b c)) = .ok .declt ∧
    CompletesReadingCode .declt s (typeNumber s.cfg (storedCode s))

/-- DECVAR, DECENT and DECOFF read bytes 1 and 2 in BYTE_ORDER and answer the fields of the code, untranslated (R160, R162,
R163, R164). -/
def Obligations.DecodeReadsRawFields : Prop :=
  ∀ (a b c : Half) (s : State), s.FrameReady 3 →
    decode (.op (opWord 0x11 a b c)) = .ok .decvar ∧ CompletesReadingCode .decvar s (storedCode s % 4) ∧
    decode (.op (opWord 0x12 a b c)) = .ok .decent ∧ CompletesReadingCode .decent s (storedCode s / 8192) ∧
    decode (.op (opWord 0x13 a b c)) = .ok .decoff ∧ CompletesReadingCode .decoff s (storedCode s / 4 % 2048)

/-- After an encode operation the decode operations on the same FRAME give back the logical type, the variant, and the
derived entity and offset, under either byte order; for an out-of-range type, 17, the variant, 0 and 0 (R165, the spec's
inference). -/
def Obligations.EncodeThenDecodeRoundTrip : Prop :=
  ∀ (v : Variant) (lt len : Half) (s : State), s.cfg.eStaSta ≠ 0 → s.EncodeReady v lt len →
    ∃ t, exec (encodeInstr v lt len) s = .next t ∧
      CompletesReadingCode .declt t (if lt.toNat ≤ 16 then lt.toNat else 17) ∧
      CompletesReadingCode .decvar t (variantCode v).toNat ∧
      CompletesReadingCode .decent t (wireNumber s.cfg lt.toNat / 8192) ∧
      CompletesReadingCode .decoff t (wireNumber s.cfg lt.toNat / 4 % 2048)

/-- A code written in one byte order and read in the other has its bytes exchanged; in the same order it comes back
(R52, R207). -/
def Obligations.ByteOrderMustAgree : Prop :=
  (∀ (o : ByteOrder) (code : Half), ∃ b0 b1, codeBytes o code = [b0, b1] ∧ codeOf o b0 b1 = code) ∧
  (∀ code : Half, ∃ b0 b1, codeBytes .le code = [b0, b1] ∧
    (codeOf .be b0 b1).toNat = code.toNat % 256 * 256 + code.toNat / 256) ∧
  ∃ b0 b1, codeBytes .le 0x6064 = [b0, b1] ∧ codeOf .be b0 b1 = 0x6460

/-- After an encode operation under legal parameters with code 0 not gated, the version byte is PROTO_VERSION, never 0; and
a decode operation answers the same whatever the version byte is (R210, the spec's inference). -/
def Obligations.VersionOnEncodeAndDecode : Prop :=
  (∀ (v : Variant) (lt len : Half) (s t : State), s.cfg.legal = true → s.cfg.eVendor ≠ 0 → s.cfg.eManufacture ≠ 0 →
    exec (encodeInstr v lt len) s = .next t → t.frame.read 0 = s.cfg.protoVersion ∧ t.frame.read 0 ≠ 0) ∧
  ∀ (i : Instr) (x : Byte) (s t : State), i ∈ [Instr.declt, .decvar, .decent, .decoff] → exec i s = .next t →
    ∃ u, exec i { s with frame := s.frame.write 0 x } = .next u ∧ u.r = t.r

/-- DISP and VERSEL compare all 16 bits of an operand that PACK masks (R209). -/
def Obligations.ComparisonsDoNotMask : Prop :=
  (∀ (e : Half) (s : State), 8 ≤ e.toNat → CompletesWith (.versel e) s s.cfg.protoVersion.toNat) ∧
  (∀ (v lt len : Half) (s : State), 4 ≤ v.toNat →
    ∃ t, exec (.disp v lt len) s = .next t ∧ t.dp.hit = false ∧ t.r = 5) ∧
  ∀ (v e o : Half) (s : State), ∃ t u, exec (.pack v e o) s = .next t ∧
    exec (.pack (v &&& 3) (e &&& 7) o) s = .next u ∧ t.r = u.r

/-! ### The tables and the parameters -/

/-- BAND_ROM's five records in order; the layout of its 19-bit records, anchor, origin, entity from the top, and of
DISPATCH_ROM's 8-bit records, variant, lt, fn from the top; and the reference DISPATCH_ROM's one record 0x11 (R35, R86, R87). -/
def Obligations.TablesHoldTheSpecsRecords : Prop :=
  (∀ k : Config, (bandRom k).map (fun e => (e.anchor.toNat, e.origin.toNat)) =
      [(8, 0x19), (7, 0x12), (6, 0x10), (5, 0x0E), (4, 0x08)] ∧ ∀ e ∈ bandRom k, e.entity = k.eStaSta) ∧
  (∀ e : BandRecord, (bandBits e).toNat = e.anchor.toNat * 16384 + e.origin.toNat * 8 + e.entity.toNat) ∧
  (∀ e : DispRecord, (dispBits e).toNat = e.variant.toNat * 64 + e.lt.toNat * 2 + (if e.fn = .copy then 1 else 0) ∧
    dispOfBits (dispBits e) = e) ∧
  ∀ m : SetHdrMode, (referenceConfig m).dispatchRom.map dispBits = [0x11]

/-- What reset leaves: the spec's default parameters, nothing listed in FRAME and BODY, no call. The defaults at reset are
the model's choice (log 5), the sizes are not stated here. -/
def Obligations.ResetLeavesDefaults : Prop :=
  State.reset.cfg.eStaCco = 0 ∧ State.reset.cfg.eProxy = 1 ∧ State.reset.cfg.eCcoCco = 2 ∧
  State.reset.cfg.eStaSta = 3 ∧ State.reset.cfg.eManufacture = 4 ∧ State.reset.cfg.eVendor = 5 ∧
  State.reset.cfg.protoVersion = 1 ∧ State.reset.cfg.byteOrder = .le ∧
  State.reset.cfg.dispatchRom = [⟨0, 8, .copy⟩] ∧
  State.reset.frame.cells = [] ∧ State.reset.body.cells = [] ∧ State.reset.calls = []

/-! ### Decoding and stepping -/

/-- The decoder reads back every operation the encoder writes, with every operand (R90, R91). -/
def Obligations.DecodeOfEncodeIsIdentity : Prop :=
  ∀ i : Instr, decode (encode i) = .ok i

/-- The four fields are the word: no bit of the 53 is outside them, and any two words that decode to one operation have the
same select (R90). -/
def Obligations.WordsAreTheirFields : Prop :=
  (∀ w : OpWord, opWord (opField w) (aField w) (bField w) (cField w) = w) ∧
  (∀ (p : Select) (a b c : Half), opField (opWord p a b c) = p ∧ aField (opWord p a b c) = a ∧
    bField (opWord p a b c) = b ∧ cField (opWord p a b c) = c) ∧
  ∀ (w w' : OpWord) (i : Instr), decode (.op w) = .ok i → decode (.op w') = .ok i → opField w = opField w'

/-- Some 53-bit words written out from R90 and R91 decode to the operations they stand for, and so do the two rows of format
FN (R90). That COPY's count is read from the bits above its row's, which are 0 here, is the model's choice (log 4). -/
def Obligations.WrittenOutWordsDecode : Prop :=
  decode (.op 0b00000000000000000000100000000000000110000000000011001) = .ok (.pack 1 3 0x19) ∧
  decode (.op 0b00100000000000000111000000000000000000000000000000000) = .ok (.lt2wc 14) ∧
  decode (.op 0b00110000000000000000000000000000010000000000000001010) = .ok (.disp 0 8 10) ∧
  decode (.op 0b01000000000000000100000000000000010100000000000000000) = .ok (.encreq 8 10) ∧
  decode (.op 0b10011000000000000000000000000000000000000000000000000) = .ok .decoff ∧
  decodeTableWord 8 1 = some (.copy 0) ∧ decodeTableWord 8 0 = some .nop

/-- A reserved select answers `ill` = 1 and `r` = 0 and makes no access; every other select is an operation, which never
answers `ill` = 1 (R92). -/
def Obligations.ReservedSelectsAnswerIll : Prop :=
  (∀ (w : OpWord) (s : State) (rest : List Call),
    ((opField w).toNat = 0x0E ∨ (opField w).toNat = 0x0F ∨ 0x14 ≤ (opField w).toNat) → s.calls = .op w :: rest →
    ∃ t, step s = .next t ∧ t.ill = true ∧ t.r = 0 ∧ t.bus = [] ∧ FrameKept s t ∧
      KeepsRest { s with calls := rest } t) ∧
  ∀ w : OpWord, ¬ ((opField w).toNat = 0x0E ∨ (opField w).toNat = 0x0F ∨ 0x14 ≤ (opField w).toNat) →
    ∃ i, decode (.op w) = .ok i ∧ ∀ s t, exec i s = .next t → t.ill = false

/-- A step takes the caller's next call and runs the operation it decodes to; so does a step after `withFetchWord`. How calls
come to the block is the model's choice (log 1). -/
def Obligations.StepRunsDecodedOperation : Prop :=
  (∀ (c : Call) (rest : List Call) (i : Instr) (s : State), s.calls = c :: rest → decode c = .ok i →
    step s = exec i { s with calls := rest }) ∧
  ∀ (nbits w : Nat) (i : Instr) (s : State), decodeTableWord nbits w = some i →
    step (s.withFetchWord nbits w) = exec i s

/-- With nothing driven a step completes and changes nothing the spec defines (R39); that this is a step is the model's
choice (log 2). -/
def Obligations.IdleStepChangesNothing : Prop :=
  ∀ s : State, s.calls = [] → ∃ t, step s = .next t ∧ t.bus = [] ∧ FrameKept s t ∧ KeepsRest s t

/-! ### The whole machine -/

/-- Every operation answers exactly where the caller has provided the body and the FRAME bytes it accesses, and
elsewhere is refused for one of the reasons of R185, never with a fault. That a body which overlaps or is short is
refused on a dispatch miss too is the model's reading (log 10, 11). -/
def Obligations.RunsExactlyWhenCallerReady : Prop :=
  ∀ (i : Instr) (s : State),
    (CallerReady s i → ∃ t, exec i s = .next t) ∧
    (¬ CallerReady s i → ∃ e, exec i s = .refused e ∧
      (e = .outsideFrame ∨ e = .bodyTooShort ∨ e = .bodyOverlapsFrame ∨ e = .frameShared))

/-- A body that overlaps its frame is refused by every encode operation and by COPY (R63). That it is refused on a miss as on a hit
is the model's reading (log 10), and that the overlap is the reason named even where the body is short or the FRAME is shared or
too small is its choice (log 18). -/
def Obligations.OverlappingBodyIsRefused : Prop :=
  ∀ (v : Variant) (lt len : Half) (s : State), s.bodyOverlaps len.toNat = true →
    exec (encodeInstr v lt len) s = .refused .bodyOverlapsFrame ∧
    exec (.copy len) s = .refused .bodyOverlapsFrame

/-- Two agents on one FRAME: every operation that would access the FRAME is refused (R58, R185), COPY of one byte or more among
them. The flag that says so is the model's (log 12), and so is the order of the reasons: a body that is not there first, then
the shared FRAME before an address outside it (log 18). -/
def Obligations.SharedFrameIsRefused : Prop :=
  ∀ (x y z : Half) (v : Variant) (s : State), s.frameShared = true →
    exec (.hdrwr x y) s = .refused .frameShared ∧ exec (.sethdr x y z) s = .refused .frameShared ∧
    (s.BodyReady y.toNat → exec (encodeInstr v x y) s = .refused .frameShared) ∧
    (0 < y.toNat → s.BodyReady y.toNat → exec (.copy y) s = .refused .frameShared) ∧
    exec .declt s = .refused .frameShared ∧ exec .decvar s = .refused .frameShared ∧
    exec .decent s = .refused .frameShared ∧ exec .decoff s = .refused .frameShared

/-- A FRAME too small for an operation's accesses: it is refused (R56, R185), whether the header, the code or the body lies outside.
That a body which is not there is named first is the model's choice (log 18). -/
def Obligations.SmallFrameIsRefused : Prop :=
  ∀ (x y z : Half) (v : Variant) (s : State), s.frameShared = false →
    (s.frame.size < 5 →
      exec (.hdrwr x y) s = .refused .outsideFrame ∧ exec (.sethdr x y z) s = .refused .outsideFrame ∧
      (s.BodyReady y.toNat → exec (encodeInstr v x y) s = .refused .outsideFrame)) ∧
    (s.frame.size < 5 + y.toNat → s.BodyReady y.toNat →
      ((dispatchLookup s.cfg (variantCode v) x y).fn = .copy → exec (encodeInstr v x y) s = .refused .outsideFrame) ∧
      (0 < y.toNat → exec (.copy y) s = .refused .outsideFrame)) ∧
    (s.frame.size < 3 →
      exec .declt s = .refused .outsideFrame ∧ exec .decvar s = .refused .outsideFrame ∧
      exec .decent s = .refused .outsideFrame ∧ exec .decoff s = .refused .outsideFrame)

/-- A body shorter than the length given is refused by every encode operation and by COPY (R185), and one of exactly that length
is not. That it is refused on a dispatch miss, where no byte of it would be read, is the model's reading (log 11), and that it
is named after an overlap and before the FRAME's reasons is its choice (log 18). -/
def Obligations.ShortBodyIsRefused : Prop :=
  ∀ (v : Variant) (lt len : Half) (s : State), s.BodyDisjoint len.toNat →
    (s.body.size < len.toNat →
      exec (encodeInstr v lt len) s = .refused .bodyTooShort ∧ exec (.copy len) s = .refused .bodyTooShort) ∧
    (s.body.size = len.toNat → s.FrameReady (5 + len.toNat) →
      (∃ t, exec (encodeInstr v lt len) s = .next t) ∧ ∃ t, exec (.copy len) s = .next t)

/-- No FRAME byte changes outside the addresses an operation writes, and no operation changes the parameters, the tables, the
BODY or the FRAME's size (R54, R61). -/
def Obligations.OperationsWriteOnlyTheirRange : Prop :=
  ∀ (i : Instr) (s t : State), exec i s = .next t →
    FrameKeptOutside (writeRange s i).1 (writeRange s i).2 s t ∧ KeepsRest s t

/-- Every operation is idempotent: run again on what it left, it completes with the same result, the same accesses and the
same FRAME (R54). -/
def Obligations.OperationsAreIdempotent : Prop :=
  ∀ (i : Instr) (s t : State), exec i s = .next t →
    ∃ u, exec i t = .next u ∧ u.r = t.r ∧ u.ill = t.ill ∧ u.bus = t.bus ∧ FrameKept t u

/-- Nothing persists between operations: the result, the accesses and the FRAME after an operation depend on the operands, the
parameters, FRAME and BODY, not on what an earlier operation answered; the result of an operation of U1, U2 or U3 depends on
the parameters alone (R13). -/
def Obligations.NoOperationDependsOnEarlierOnes : Prop :=
  (∀ (i : Instr) (s s' t : State), s'.cfg = s.cfg → s'.frame = s.frame → s'.frameShared = s.frameShared →
    s'.body = s.body → exec i s = .next t →
    ∃ t', exec i s' = .next t' ∧ t'.r = t.r ∧ t'.ill = t.ill ∧ t'.bus = t.bus ∧ t'.frame = t.frame) ∧
  ∀ (i : Instr) (s s' t : State), ofPureUnits i = true → s'.cfg = s.cfg → exec i s = .next t →
    ∃ t', exec i s' = .next t' ∧ t'.r = t.r

/-- An operation of U1, U2 or U3 has the same result before and after any operation (R61). -/
def Obligations.FrameWritesCannotChangeTables : Prop :=
  ∀ (i j : Instr) (s t u : State), ofPureUnits i = true → exec j s = .next t → exec i s = .next u →
    bandRom t.cfg = bandRom s.cfg ∧ t.cfg.dispatchRom = s.cfg.dispatchRom ∧ ∃ w, exec i t = .next w ∧ w.r = u.r

/-- Every FRAME address an operation forms fits 17 bits and every BODY address 16 bits (R30, R50). -/
def Obligations.AddressesFitTheInterfaces : Prop :=
  ∀ (i : Instr) (s t : State), exec i s = .next t → ∀ x ∈ t.bus, x.fitsPorts = true

/-- The sub-header bytes are 0 after every operation that writes a header (R148 (d), R153 (e)). -/
def Obligations.SubHeaderIsAlwaysZero : Prop :=
  ∀ (i : Instr) (s t : State), exec i s = .next t → (writeRange s i).1 = 0 → 5 ≤ (writeRange s i).2 →
    t.frame.read 3 = 0 ∧ t.frame.read 4 = 0

/-- A step from a good state that answers, answers a good state: the parameters stay legal, FRAME and BODY keep their
canonical form, and no access was made outside its space. -/
def Obligations.StepKeepsGoodStates : Prop :=
  ∀ s t : State, s.good = true → step s = .next t → t.good = true

/-- The state after reset is good. -/
def Obligations.ResetIsGood : Prop :=
  State.reset.good = true

/-- The count is the only sign of a dispatch miss (R206). Let one encode operation run under two tables that are otherwise
one parameter setting, the second of which misses. It leaves the same header, `ill` and dispatch ports under both; on the
miss it answers 5 and leaves every byte from address 5 as it was, and where the first copies it answers 5 plus the body's
length, so that for a body of no bytes nothing tells the two apart. That the dispatch ports are free after an encode
operation, on a hit as on a miss, is the model's reading of R91 (log 20). -/
def Obligations.MissShowsInTheCountOnly : Prop :=
  ∀ (v : Variant) (lt len : Half) (s : State) (rom : List DispRecord), s.EncodeReady v lt len →
    (∀ e ∈ rom, ¬ EntryAnswers (variantCode v) lt e) →
    let s' := { s with cfg := { s.cfg with dispatchRom := rom } }
    ∃ t t', exec (encodeInstr v lt len) s = .next t ∧ exec (encodeInstr v lt len) s' = .next t' ∧
      (∀ a < 5, t'.frame.read a = t.frame.read a) ∧ t'.ill = t.ill ∧ t'.dp = t.dp ∧
      t'.r = 5 ∧ FrameKeptOutside 0 5 s t' ∧
      t.dp = Config.undrivenDp s.tick ∧
      ((dispatchLookup s.cfg (variantCode v) lt len).fn = .copy → t.r.toNat = 5 + len.toNat) ∧
      (len = 0 → t'.r = t.r ∧ t'.bus = t.bus ∧ FrameKept t t')
end

