-- ==== Sys2Proof/Laws/State.lean ====
section
/-!
SUPPORT. One lemma per field per update of the state, each true by definition.
-/
namespace Sys2Proof.Machine
open Sys2Proof

@[simp] theorem State.start_cfg (s : State) :
    (s.start).cfg = s.cfg := rfl
@[simp] theorem State.start_calls (s : State) :
    (s.start).calls = s.calls := rfl
@[simp] theorem State.start_frame (s : State) :
    (s.start).frame = s.frame := rfl
@[simp] theorem State.start_frameShared (s : State) :
    (s.start).frameShared = s.frameShared := rfl
@[simp] theorem State.start_body (s : State) :
    (s.start).body = s.body := rfl
@[simp] theorem State.start_r (s : State) :
    (s.start).r = s.r := rfl
@[simp] theorem State.start_ill (s : State) :
    (s.start).ill = s.ill := rfl
@[simp] theorem State.start_dp (s : State) :
    (s.start).dp = s.dp := rfl
@[simp] theorem State.start_bus (s : State) :
    (s.start).bus = [] := rfl
@[simp] theorem State.start_tick (s : State) :
    (s.start).tick = s.tick := rfl

@[simp] theorem State.answer_cfg (s : State) (x : Count) :
    (s.answer x).cfg = s.cfg := rfl
@[simp] theorem State.answer_calls (s : State) (x : Count) :
    (s.answer x).calls = s.calls := rfl
@[simp] theorem State.answer_frame (s : State) (x : Count) :
    (s.answer x).frame = s.frame := rfl
@[simp] theorem State.answer_frameShared (s : State) (x : Count) :
    (s.answer x).frameShared = s.frameShared := rfl
@[simp] theorem State.answer_body (s : State) (x : Count) :
    (s.answer x).body = s.body := rfl
@[simp] theorem State.answer_r (s : State) (x : Count) :
    (s.answer x).r = x := rfl
@[simp] theorem State.answer_ill (s : State) (x : Count) :
    (s.answer x).ill = false := rfl
@[simp] theorem State.answer_dp (s : State) (x : Count) :
    (s.answer x).dp = Config.undrivenDp s.tick := rfl
@[simp] theorem State.answer_bus (s : State) (x : Count) :
    (s.answer x).bus = s.bus := rfl
@[simp] theorem State.answer_tick (s : State) (x : Count) :
    (s.answer x).tick = s.tick + 1 := rfl

@[simp] theorem State.answerDp_cfg (s : State) (d : DispOut) :
    (s.answerDp d).cfg = s.cfg := rfl
@[simp] theorem State.answerDp_calls (s : State) (d : DispOut) :
    (s.answerDp d).calls = s.calls := rfl
@[simp] theorem State.answerDp_frame (s : State) (d : DispOut) :
    (s.answerDp d).frame = s.frame := rfl
@[simp] theorem State.answerDp_frameShared (s : State) (d : DispOut) :
    (s.answerDp d).frameShared = s.frameShared := rfl
@[simp] theorem State.answerDp_body (s : State) (d : DispOut) :
    (s.answerDp d).body = s.body := rfl
@[simp] theorem State.answerDp_r (s : State) (d : DispOut) :
    (s.answerDp d).r = d.total := rfl
@[simp] theorem State.answerDp_ill (s : State) (d : DispOut) :
    (s.answerDp d).ill = false := rfl
@[simp] theorem State.answerDp_dp (s : State) (d : DispOut) :
    (s.answerDp d).dp = d := rfl
@[simp] theorem State.answerDp_bus (s : State) (d : DispOut) :
    (s.answerDp d).bus = s.bus := rfl
@[simp] theorem State.answerDp_tick (s : State) (d : DispOut) :
    (s.answerDp d).tick = s.tick + 1 := rfl

@[simp] theorem State.illegal_cfg (s : State) (sel : Select) :
    (s.illegal sel).cfg = s.cfg := rfl
@[simp] theorem State.illegal_calls (s : State) (sel : Select) :
    (s.illegal sel).calls = s.calls := rfl
@[simp] theorem State.illegal_frame (s : State) (sel : Select) :
    (s.illegal sel).frame = s.frame := rfl
@[simp] theorem State.illegal_frameShared (s : State) (sel : Select) :
    (s.illegal sel).frameShared = s.frameShared := rfl
@[simp] theorem State.illegal_body (s : State) (sel : Select) :
    (s.illegal sel).body = s.body := rfl
@[simp] theorem State.illegal_r (s : State) (sel : Select) :
    (s.illegal sel).r = 0 := rfl
@[simp] theorem State.illegal_ill (s : State) (sel : Select) :
    (s.illegal sel).ill = illFlag sel := rfl
@[simp] theorem State.illegal_dp (s : State) (sel : Select) :
    (s.illegal sel).dp = Config.undrivenDp s.tick := rfl
@[simp] theorem State.illegal_bus (s : State) (sel : Select) :
    (s.illegal sel).bus = [] := rfl
@[simp] theorem State.illegal_tick (s : State) (sel : Select) :
    (s.illegal sel).tick = s.tick + 1 := rfl

@[simp] theorem State.idle_cfg (s : State) :
    (s.idle).cfg = s.cfg := rfl
@[simp] theorem State.idle_calls (s : State) :
    (s.idle).calls = s.calls := rfl
@[simp] theorem State.idle_frame (s : State) :
    (s.idle).frame = s.frame := rfl
@[simp] theorem State.idle_frameShared (s : State) :
    (s.idle).frameShared = s.frameShared := rfl
@[simp] theorem State.idle_body (s : State) :
    (s.idle).body = s.body := rfl
@[simp] theorem State.idle_r (s : State) :
    (s.idle).r = Config.undrivenResult s.tick := rfl
@[simp] theorem State.idle_ill (s : State) :
    (s.idle).ill = Config.undrivenIll s.tick := rfl
@[simp] theorem State.idle_dp (s : State) :
    (s.idle).dp = Config.undrivenDp s.tick := rfl
@[simp] theorem State.idle_bus (s : State) :
    (s.idle).bus = [] := rfl
@[simp] theorem State.idle_tick (s : State) :
    (s.idle).tick = s.tick + 1 := rfl

@[simp] theorem State.noted_cfg (s : State) (x : Access) :
    (s.noted x).cfg = s.cfg := rfl
@[simp] theorem State.noted_calls (s : State) (x : Access) :
    (s.noted x).calls = s.calls := rfl
@[simp] theorem State.noted_frame (s : State) (x : Access) :
    (s.noted x).frame = s.frame := rfl
@[simp] theorem State.noted_frameShared (s : State) (x : Access) :
    (s.noted x).frameShared = s.frameShared := rfl
@[simp] theorem State.noted_body (s : State) (x : Access) :
    (s.noted x).body = s.body := rfl
@[simp] theorem State.noted_r (s : State) (x : Access) :
    (s.noted x).r = s.r := rfl
@[simp] theorem State.noted_ill (s : State) (x : Access) :
    (s.noted x).ill = s.ill := rfl
@[simp] theorem State.noted_dp (s : State) (x : Access) :
    (s.noted x).dp = s.dp := rfl
@[simp] theorem State.noted_bus (s : State) (x : Access) :
    (s.noted x).bus = s.bus ++ [x] := rfl
@[simp] theorem State.noted_tick (s : State) (x : Access) :
    (s.noted x).tick = s.tick := rfl

@[simp] theorem State.stored_cfg (s : State) (a : Nat) (v : Byte) :
    (s.stored a v).cfg = s.cfg := rfl
@[simp] theorem State.stored_calls (s : State) (a : Nat) (v : Byte) :
    (s.stored a v).calls = s.calls := rfl
@[simp] theorem State.stored_frame (s : State) (a : Nat) (v : Byte) :
    (s.stored a v).frame = s.frame.write a v := rfl
@[simp] theorem State.stored_frameShared (s : State) (a : Nat) (v : Byte) :
    (s.stored a v).frameShared = s.frameShared := rfl
@[simp] theorem State.stored_body (s : State) (a : Nat) (v : Byte) :
    (s.stored a v).body = s.body := rfl
@[simp] theorem State.stored_r (s : State) (a : Nat) (v : Byte) :
    (s.stored a v).r = s.r := rfl
@[simp] theorem State.stored_ill (s : State) (a : Nat) (v : Byte) :
    (s.stored a v).ill = s.ill := rfl
@[simp] theorem State.stored_dp (s : State) (a : Nat) (v : Byte) :
    (s.stored a v).dp = s.dp := rfl
@[simp] theorem State.stored_bus (s : State) (a : Nat) (v : Byte) :
    (s.stored a v).bus = s.bus ++ [.frameWrite a v] := rfl
@[simp] theorem State.stored_tick (s : State) (a : Nat) (v : Byte) :
    (s.stored a v).tick = s.tick := rfl

@[simp] theorem State.withFetchWord_cfg (s : State) (nbits w : Nat) :
    (s.withFetchWord nbits w).cfg = s.cfg := rfl
@[simp] theorem State.withFetchWord_calls (s : State) (nbits w : Nat) :
    (s.withFetchWord nbits w).calls = callOfBits nbits w :: s.calls := rfl
@[simp] theorem State.withFetchWord_frame (s : State) (nbits w : Nat) :
    (s.withFetchWord nbits w).frame = s.frame := rfl
@[simp] theorem State.withFetchWord_frameShared (s : State) (nbits w : Nat) :
    (s.withFetchWord nbits w).frameShared = s.frameShared := rfl
@[simp] theorem State.withFetchWord_body (s : State) (nbits w : Nat) :
    (s.withFetchWord nbits w).body = s.body := rfl
@[simp] theorem State.withFetchWord_r (s : State) (nbits w : Nat) :
    (s.withFetchWord nbits w).r = s.r := rfl
@[simp] theorem State.withFetchWord_ill (s : State) (nbits w : Nat) :
    (s.withFetchWord nbits w).ill = s.ill := rfl
@[simp] theorem State.withFetchWord_dp (s : State) (nbits w : Nat) :
    (s.withFetchWord nbits w).dp = s.dp := rfl
@[simp] theorem State.withFetchWord_bus (s : State) (nbits w : Nat) :
    (s.withFetchWord nbits w).bus = s.bus := rfl
@[simp] theorem State.withFetchWord_tick (s : State) (nbits w : Nat) :
    (s.withFetchWord nbits w).tick = s.tick := rfl

@[simp] theorem Space.write_base (sp : Space) (a : Nat) (v : Byte) : (sp.write a v).base = sp.base := rfl
@[simp] theorem Space.writeAll_base (sp : Space) (a : Nat) (vs : List Byte) : (sp.writeAll a vs).base = sp.base := rfl
@[simp] theorem Space.write_size (sp : Space) (a : Nat) (v : Byte) : (sp.write a v).size = sp.size := rfl
@[simp] theorem Space.writeAll_size (sp : Space) (a : Nat) (vs : List Byte) : (sp.writeAll a vs).size = sp.size := rfl
@[simp] theorem Space.write_fill (sp : Space) (a : Nat) (v : Byte) : (sp.write a v).fill = sp.fill := rfl
@[simp] theorem Space.writeAll_fill (sp : Space) (a : Nat) (vs : List Byte) : (sp.writeAll a vs).fill = sp.fill := rfl
@[simp] theorem Space.write_cells (sp : Space) (a : Nat) (v : Byte) : (sp.write a v).cells = sp.cells.write a v := rfl
@[simp] theorem Space.writeAll_cells (sp : Space) (a : Nat) (vs : List Byte) :
    (sp.writeAll a vs).cells = sp.cells.writeAll a vs := rfl
@[simp] theorem Space.writeAll_nil (sp : Space) (a : Nat) : sp.writeAll a [] = sp := rfl
@[simp] theorem Space.writeAll_cons (sp : Space) (a : Nat) (v : Byte) (vs : List Byte) :
    sp.writeAll a (v :: vs) = (sp.write a v).writeAll (a + 1) vs := rfl

end Sys2Proof.Machine
end

