-- ==== Sys2Proof/Laws/Memory.lean ====
section
/-!
SUPPORT. Reading after writing, and the canonical form: every write keeps it.
-/
namespace Sys2Proof.Machine
open Sys2Proof

theorem Memory.lookup_write (m : Memory) (a : Nat) (v : Byte) (c : Nat) :
    (m.write a v).lookup c = if c = a then some v else m.lookup c := by
  induction m with
  | nil => by_cases h : c = a <;> simp [Memory.write, Memory.lookup, h]
  | cons hd rest ih =>
    obtain ⟨b, w⟩ := hd
    rcases Nat.lt_trichotomy a b with hab | hab | hab
    · simp [Memory.write, Memory.lookup, hab]
    · subst hab
      by_cases h : c = a <;> simp [Memory.write, Memory.lookup, h]
    · have h1 : ¬ a < b := by omega
      have h2 : a ≠ b := by omega
      by_cases h : c = b
      · have h3 : ¬ b = a := by omega
        simp [Memory.write, Memory.lookup, h1, h2, h, h3]
      · simp [Memory.write, Memory.lookup, h1, h2, h, ih]

/-- A byte reads as what was stored there last. -/
@[simp] theorem Space.read_write_same (sp : Space) (a : Nat) (v : Byte) : (sp.write a v).read a = v := by
  simp [Space.read, Memory.lookup_write]

/-- A store leaves every other byte alone. -/
theorem Space.read_write_other (sp : Space) {a c : Nat} (v : Byte) (h : c ≠ a) :
    (sp.write a v).read c = sp.read c := by
  simp [Space.read, Memory.lookup_write, h]

/-- Reading after storing bytes at consecutive addresses. -/
theorem Space.read_writeAll (vs : List Byte) (sp : Space) (a c : Nat) :
    (sp.writeAll a vs).read c = if h : a ≤ c ∧ c < a + vs.length then vs[c - a]'(by omega) else sp.read c := by
  induction vs generalizing sp a with
  | nil =>
    have h : ¬ (a ≤ c ∧ c < a + ([] : List Byte).length) := by simp
    rw [Space.writeAll_nil, dif_neg h]
  | cons v vs ih =>
    rw [Space.writeAll_cons, ih]
    by_cases hc : c = a
    · subst hc
      simp
    · rw [Space.read_write_other _ _ hc]
      by_cases h : a + 1 ≤ c ∧ c < a + 1 + vs.length
      · have h' : a ≤ c ∧ c < a + (v :: vs).length := by simp only [List.length_cons]; omega
        rw [dif_pos h, dif_pos h', List.getElem_cons]
        have h0 : ¬ c - a = 0 := by omega
        rw [dif_neg h0]
        congr 1
      · have h' : ¬ (a ≤ c ∧ c < a + (v :: vs).length) := by simp only [List.length_cons]; omega
        rw [dif_neg h, dif_neg h']

theorem Memory.rising_cons (c : Host.Cell) (m : Memory) :
    Memory.rising (c :: m) = true ↔ (∀ d ∈ m.head?, c.1 < d.1) ∧ m.rising = true := by
  cases m with
  | nil => simp [Memory.rising]
  | cons d rest => simp [Memory.rising]

theorem Memory.write_rising {m : Memory} (a : Nat) (v : Byte) (h : m.rising = true) :
    (m.write a v).rising = true := by
  induction m with
  | nil => rfl
  | cons hd rest ih =>
    obtain ⟨b, w⟩ := hd
    rw [Memory.rising_cons] at h
    unfold Memory.write
    split
    · rename_i hab
      simpa [Memory.rising_cons, hab] using h
    · split
      · rename_i _ hab
        subst hab
        simpa [Memory.rising_cons] using h
      · rename_i h1 h2
        refine (Memory.rising_cons _ _).mpr ⟨?_, ih h.2⟩
        intro d hd
        cases rest with
        | nil =>
          simp [Memory.write] at hd
          subst hd
          simp; omega
        | cons e rest =>
          obtain ⟨f, x⟩ := e
          have hf : b < f := by simpa using h.1
          simp only [Memory.write] at hd
          split at hd
          · simp at hd; subst hd; simp; omega
          · split at hd
            · simp at hd; subst hd; simp; omega
            · simp at hd; subst hd; simpa using hf

theorem Memory.write_mem {m : Memory} {a : Nat} {v : Byte} {c : Host.Cell} (h : c ∈ m.write a v) :
    c = (a, v) ∨ c ∈ m := by
  induction m with
  | nil => simpa [Memory.write] using h
  | cons hd rest ih =>
    obtain ⟨b, w⟩ := hd
    unfold Memory.write at h
    split at h
    · simpa using h
    · split at h
      · rcases List.mem_cons.mp h with h | h
        · exact .inl h
        · exact .inr (List.mem_cons_of_mem _ h)
      · rcases List.mem_cons.mp h with h | h
        · exact .inr (by simp [h])
        · exact (ih h).imp id (List.mem_cons_of_mem _)

/-- A store inside the space keeps the canonical form. -/
theorem Space.write_wf {sp : Space} {a : Nat} (v : Byte) (ha : a < sp.size) (h : sp.wf = true) :
    (sp.write a v).wf = true := by
  simp only [Space.wf, Memory.wf, Bool.and_eq_true, List.all_eq_true, Space.write_cells, Space.write_size] at h ⊢
  refine ⟨Memory.write_rising a v h.1, fun c hc => ?_⟩
  rcases Memory.write_mem hc with rfl | hc
  · exact decide_eq_true ha
  · exact h.2 c hc

/-- Stores at consecutive addresses inside the space keep the canonical form. -/
theorem Space.writeAll_wf (vs : List Byte) {sp : Space} {a : Nat} (ha : a + vs.length ≤ sp.size ∨ vs = [])
    (h : sp.wf = true) : (sp.writeAll a vs).wf = true := by
  induction vs generalizing sp a with
  | nil => exact h
  | cons v vs ih =>
    have ha' : a + (vs.length + 1) ≤ sp.size := by simpa using ha
    rw [Space.writeAll_cons]
    exact ih (.inl (by simp; omega)) (Space.write_wf v (by omega) h)

end Sys2Proof.Machine
end

