-- ==== Sys2Proof/Laws/Ops.lean ====
section
/-!
SUPPORT. For each shared operation over the state, everything it can do: when it answers, with what, and when it refuses.
-/
namespace Sys2Proof.Machine
open Sys2Proof

/-- The byte writes of consecutive bytes. -/
def writesFrom : Nat → List Byte → List Access
  | _, [] => []
  | a, v :: vs => .frameWrite a v :: writesFrom (a + 1) vs

/-- The state after bytes are stored in FRAME at consecutive addresses. -/
def State.storedAll (a : Nat) (vs : List Byte) (s : State) : State :=
  { s with frame := s.frame.writeAll a vs, bus := s.bus ++ writesFrom a vs }

theorem frameRefusal_none {a : Nat} {s : State} :
    frameRefusal a s = none ↔ s.frameShared = false ∧ a < s.frame.size := by
  unfold frameRefusal
  cases s.frameShared <;> simp

/-- Why a FRAME access is refused. -/
theorem frameRefusal_some {a : Nat} {s : State} {e : Refusal} (h : frameRefusal a s = some e) :
    (s.frameShared = true ∧ e = .frameShared) ∨
      (s.frameShared = false ∧ s.frame.size ≤ a ∧ e = .outsideFrame) := by
  unfold frameRefusal at h
  cases hs : s.frameShared <;> simp [hs] at h ⊢
  · exact ⟨h.1, h.2.symm⟩
  · exact h.symm

/-- What one FRAME write does. -/
theorem frameWrite_eq (a : Nat) (v : Byte) (s : State) :
    frameWrite a v s = match frameRefusal a s with
      | some e => .error e
      | none => .ok (s.stored a v) := rfl

/-- A FRAME write that answers. -/
theorem frameWrite_ok {a : Nat} {v : Byte} {s t : State} (h : frameWrite a v s = .ok t) :
    (s.frameShared = false ∧ a < s.frame.size) ∧ t = s.stored a v := by
  unfold frameWrite at h
  split at h
  · cases h
  · rename_i hr
    cases h
    exact ⟨frameRefusal_none.mp hr, rfl⟩

theorem State.stored_storedAll (a : Nat) (v : Byte) (vs : List Byte) (s : State) :
    (s.stored a v).storedAll (a + 1) vs = s.storedAll a (v :: vs) := by
  simp [State.stored, State.storedAll, writesFrom]

theorem frameRefusal_stored (a b : Nat) (v : Byte) (s : State) :
    frameRefusal a (s.stored b v) = frameRefusal a s := rfl

/-- `MemWrite` answers exactly where every byte has room and one agent uses the FRAME. -/
theorem memWrite_ready {a : Nat} {vs : List Byte} {s : State}
    (h : vs = [] ∨ s.FrameReady (a + vs.length)) : memWrite a vs s = .ok (s.storedAll a vs) := by
  induction vs generalizing a s with
  | nil => simp [memWrite, State.storedAll, writesFrom]
  | cons v vs ih =>
    have hr : s.FrameReady (a + (vs.length + 1)) := by simpa using h
    have h0 : frameRefusal a s = none := frameRefusal_none.mpr ⟨hr.1, by have := hr.2; omega⟩
    have h1 : memWrite (a + 1) vs (s.stored a v) = .ok ((s.stored a v).storedAll (a + 1) vs) :=
      ih (.inr ⟨hr.1, by have := hr.2; simp; omega⟩)
    simp only [memWrite, frameWrite, h0, bind, Except.bind]
    rw [h1, State.stored_storedAll]

/-- Where `MemWrite` does not answer, it refuses for one of the two reasons a FRAME access has. -/
theorem memWrite_refused {a : Nat} {vs : List Byte} {s : State}
    (h : ¬ (vs = [] ∨ s.FrameReady (a + vs.length))) :
    memWrite a vs s = .error (if s.frameShared then .frameShared else .outsideFrame) := by
  induction vs generalizing a s with
  | nil => simp at h
  | cons v vs ih =>
    simp only [memWrite, frameWrite, bind, Except.bind]
    cases hr : frameRefusal a s with
    | some e =>
      rcases frameRefusal_some hr with ⟨hs, rfl⟩ | ⟨hs, -, rfl⟩ <;> simp [hs]
    | none =>
      obtain ⟨hs, ha⟩ := frameRefusal_none.mp hr
      have h1 := ih (a := a + 1) (s := s.stored a v) (by
        rintro (rfl | ⟨_, h2⟩)
        · exact h (.inr ⟨hs, by simpa using ha⟩)
        · exact h (.inr ⟨hs, by simp only [State.stored_frame, Space.write_size] at h2; simp; omega⟩))
      exact h1

/-- Everything `MemWrite` can answer. -/
theorem memWrite_ok {a : Nat} {vs : List Byte} {s t : State} (h : memWrite a vs s = .ok t) :
    (vs = [] ∨ s.FrameReady (a + vs.length)) ∧ t = s.storedAll a vs := by
  by_cases hr : vs = [] ∨ s.FrameReady (a + vs.length)
  · rw [memWrite_ready hr] at h
    cases h
    exact ⟨hr, rfl⟩
  · rw [memWrite_refused hr] at h
    cases h

/-- The stored code is read where the FRAME has its first three bytes. -/
theorem readCode_ready {s : State} (h : s.FrameReady 3) :
    readCode s = .ok (codeOf s.cfg.byteOrder (s.frame.read 1) (s.frame.read 2),
      (s.noted (.frameRead 1)).noted (.frameRead 2)) := by
  have h1 : frameRefusal 1 s = none := frameRefusal_none.mpr ⟨h.1, by have := h.2; omega⟩
  have h2 : frameRefusal 2 (s.noted (.frameRead 1)) = none :=
    frameRefusal_none.mpr ⟨h.1, by have := h.2; simp; omega⟩
  simp [readCode, frameRead, h1, h2, bind, Except.bind, pure, Except.pure]

theorem readCode_refused {s : State} (h : ¬ s.FrameReady 3) :
    readCode s = .error (if s.frameShared then .frameShared else .outsideFrame) := by
  cases hs : s.frameShared with
  | true =>
    have h1 : frameRefusal 1 s = some .frameShared := by simp [frameRefusal, hs]
    simp [readCode, frameRead, h1, bind, Except.bind]
  | false =>
    have hsz : s.frame.size < 3 := by
      by_contra hc
      exact h ⟨hs, by omega⟩
    by_cases h1 : 1 < s.frame.size
    · have e1 : frameRefusal 1 s = none := frameRefusal_none.mpr ⟨hs, h1⟩
      have e2 : frameRefusal 2 (s.noted (.frameRead 1)) = some .outsideFrame := by
        have : ¬ 2 < s.frame.size := by omega
        simp [frameRefusal, hs, this]
      simp [readCode, frameRead, e1, e2, bind, Except.bind]
    · have e1 : frameRefusal 1 s = some .outsideFrame := by simp [frameRefusal, hs, h1]
      simp [readCode, frameRead, e1, bind, Except.bind]

/-- The bytes of BODY from byte `i` on. -/
def bodyBytes (sp : Space) : Nat → Nat → List Byte
  | _, 0 => []
  | i, n + 1 => sp.read i :: bodyBytes sp (i + 1) n

@[simp] theorem bodyBytes_length (sp : Space) (i n : Nat) : (bodyBytes sp i n).length = n := by
  induction n generalizing i with
  | zero => rfl
  | succ n ih => simp [bodyBytes, ih]

theorem bodyBytes_getElem (sp : Space) (i n j : Nat) (h : j < (bodyBytes sp i n).length) :
    (bodyBytes sp i n)[j] = sp.read (i + j) := by
  induction n generalizing i j with
  | zero => simp at h
  | succ n ih =>
    cases j with
    | zero => rfl
    | succ j =>
      have := ih (i + 1) j (by simpa using h)
      simp only [bodyBytes, List.getElem_cons_succ, this]
      congr 1
      omega

/-- The accesses of COPY from BODY byte `i` on. -/
def copyAccessesFrom (sp : Space) : Nat → Nat → List Access
  | _, 0 => []
  | i, n + 1 => .bodyRead i :: .frameWrite (5 + i) (sp.read i) :: copyAccessesFrom sp (i + 1) n

/-- The state after COPY. -/
def State.copied (i n : Nat) (s : State) : State :=
  { s with frame := s.frame.writeAll (5 + i) (bodyBytes s.body i n), bus := s.bus ++ copyAccessesFrom s.body i n }

/-- One byte of COPY: what it takes, and the state after it. -/
theorem copyFrom_step {i n : Nat} {s : State} (hb : i < s.body.size) (hf : s.FrameReady (5 + i + 1)) :
    copyFrom i (n + 1) s = copyFrom (i + 1) n ((s.noted (.bodyRead i)).stored (5 + i) (s.body.read i)) := by
  have hr : frameRefusal (5 + i) (s.noted (.bodyRead i)) = none :=
    frameRefusal_none.mpr ⟨hf.1, by have := hf.2; simp; omega⟩
  simp [copyFrom, bodyRead, hb, memWrite, frameWrite, fixedHeaderLen, hr, bind, Except.bind]

/-- COPY answers where the body reaches that far and the FRAME has room. -/
theorem copyFrom_ready {i n : Nat} {s : State} (h : n = 0 ∨ (i + n ≤ s.body.size ∧ s.FrameReady (5 + i + n))) :
    copyFrom i n s = .ok (s.copied i n) := by
  induction n generalizing i s with
  | zero => simp [copyFrom, State.copied, bodyBytes, copyAccessesFrom]
  | succ n ih =>
    obtain ⟨hb, hs, hf⟩ : i + (n + 1) ≤ s.body.size ∧ s.FrameReady (5 + i + (n + 1)) := by simpa using h
    rw [copyFrom_step (by omega) ⟨hs, by omega⟩]
    refine (ih (.inr ⟨?_, ?_, ?_⟩)).trans ?_
    · simp; omega
    · exact hs
    · simp; omega
    simp [State.copied, State.stored, State.noted, bodyBytes, copyAccessesFrom, Nat.add_assoc]

/-- Where COPY does not answer, it refuses by name. -/
theorem copyFrom_refused {i n : Nat} {s : State}
    (h : ¬ (n = 0 ∨ (i + n ≤ s.body.size ∧ s.FrameReady (5 + i + n)))) :
    ∃ e, copyFrom i n s = .error e ∧ (e = .bodyTooShort ∨ e = .frameShared ∨ e = .outsideFrame) := by
  induction n generalizing i s with
  | zero => simp at h
  | succ n ih =>
    by_cases hb : i < s.body.size
    · by_cases hf : s.FrameReady (5 + i + 1)
      · rw [copyFrom_step hb hf]
        refine ih fun h' => h (.inr ?_)
        rcases h' with rfl | ⟨h1, h2, h3⟩
        · exact ⟨by omega, hf.1, by have := hf.2; omega⟩
        · simp only [State.stored_body, State.noted_body, State.stored_frame, State.noted_frame,
            Space.write_size] at h1 h3
          exact ⟨by omega, hf.1, by omega⟩
      · have hm : memWrite (5 + i) [s.body.read i] (s.noted (.bodyRead i)) = _ :=
          memWrite_refused (by simpa using hf)
        simp only [copyFrom, bodyRead, hb, if_true, fixedHeaderLen, bind, Except.bind, hm]
        refine ⟨_, rfl, ?_⟩
        split <;> simp
    · simp [copyFrom, bodyRead, hb, bind, Except.bind]

/-- Where the body reaches that far, COPY is refused for one of the two reasons a FRAME access has. -/
theorem copyFrom_noRoom {i n : Nat} {s : State} (hb : i + n ≤ s.body.size) (hn : n ≠ 0)
    (hf : ¬ s.FrameReady (5 + i + n)) :
    copyFrom i n s = .error (if s.frameShared then .frameShared else .outsideFrame) := by
  induction n generalizing i s with
  | zero => exact absurd rfl hn
  | succ n ih =>
    have hi : i < s.body.size := by omega
    by_cases hr : s.FrameReady (5 + i + 1)
    · rw [copyFrom_step hi hr]
      have h0 : n ≠ 0 := by
        rintro rfl
        exact hf hr
      exact ih (s := (s.noted (.bodyRead i)).stored (5 + i) (s.body.read i)) (by simp; omega) h0
        fun h => hf ⟨h.1, by have := h.2; simp at this; omega⟩
    · have hm : memWrite (5 + i) [s.body.read i] (s.noted (.bodyRead i)) = _ :=
        memWrite_refused (by simpa using hr)
      simp only [copyFrom, bodyRead, hi, if_true, fixedHeaderLen, bind, Except.bind, hm]
      rfl

/-- A body that is there passes. -/
theorem requireBody_ready {n : Nat} {s : State} (h : s.BodyReady n) : requireBody n s = .ok () := by
  obtain ⟨h1, h2⟩ := h
  have h1' : s.bodyOverlaps n = false := h1
  simp [requireBody, h1', Nat.not_lt.mpr h2]

/-- A body that is not is refused, an overlap first. -/
theorem requireBody_refused {n : Nat} {s : State} (h : ¬ s.BodyReady n) :
    requireBody n s = .error (if s.bodyOverlaps n then .bodyOverlapsFrame else .bodyTooShort) := by
  unfold requireBody
  by_cases h1 : s.bodyOverlaps n = true
  · simp [h1]
  · have h1' : s.bodyOverlaps n = false := by simpa using h1
    have h2 : s.body.size < n := Nat.lt_of_not_le fun h2 => h ⟨h1', h2⟩
    simp [h1', h2]

/-- Everything COPY can answer. -/
theorem copyFrom_ok {i n : Nat} {s t : State} (h : copyFrom i n s = .ok t) :
    (n = 0 ∨ (i + n ≤ s.body.size ∧ s.FrameReady (5 + i + n))) ∧ t = s.copied i n := by
  by_cases hr : n = 0 ∨ (i + n ≤ s.body.size ∧ s.FrameReady (5 + i + n))
  · rw [copyFrom_ready hr] at h
    cases h
    exact ⟨hr, rfl⟩
  · obtain ⟨e, he, -⟩ := copyFrom_refused hr
    rw [he] at h
    cases h

/-- The header's five bytes. -/
def headerBytes (k : Config) (code : Half) (version : Byte) : List Byte :=
  version :: codeBytes k.byteOrder code ++ [0, 0]

/-- The state after the header writer: its five writes, in order. -/
def State.headed (code : Half) (version : Byte) (s : State) : State :=
  ((((s.storedAll 0 [version]).storedAll 1 (codeBytes s.cfg.byteOrder code)).storedAll 3 [0, 0]).storedAll 3
    [0]).storedAll 4 [0]

theorem codeBytes_length (o : ByteOrder) (k : Half) : (codeBytes o k).length = 2 := by
  cases o <;> rfl

/-- The header writer answers where the FRAME has five bytes. -/
theorem writeHeader_ready {code : Half} {version : Byte} {s : State} (h : s.FrameReady 5) :
    writeHeader code version s = .ok (s.headed code version) := by
  have key : ∀ (a : Nat) (vs : List Byte) (u : State), u.frameShared = s.frameShared →
      u.frame.size = s.frame.size → a + vs.length ≤ 5 → memWrite a vs u = .ok (u.storedAll a vs) :=
    fun a vs u hs hz hl => memWrite_ready (.inr ⟨hs.trans h.1, by have := h.2; omega⟩)
  let s1 := s.storedAll 0 [version]
  let s2 := s1.storedAll 1 (codeBytes s.cfg.byteOrder code)
  let s3 := s2.storedAll 3 [0, 0]
  let s4 := s3.storedAll 3 [0]
  have e1 : memWrite 0 [version] s = .ok s1 := key _ _ _ rfl rfl (by simp)
  have e2 : memWrite 1 (codeBytes s1.cfg.byteOrder code) s1 = .ok s2 :=
    key _ _ s1 rfl rfl (by simp [codeBytes_length])
  have e3 : memWrite 3 subHeaderZeros s2 = .ok s3 := key _ _ s2 rfl rfl (by simp [subHeaderZeros])
  have e4 : memWrite 3 [0] s3 = .ok s4 := key _ _ s3 rfl rfl (by simp)
  have e5 : memWrite 4 [0] s4 = .ok (s4.storedAll 4 [0]) := key _ _ s4 rfl rfl (by simp)
  simp only [writeHeader, bind, Except.bind, e1, e2, e3, e4, e5]
  rfl

/-- The header writer refuses elsewhere. -/
theorem writeHeader_refused {code : Half} {version : Byte} {s : State} (h : ¬ s.FrameReady 5) :
    writeHeader code version s = .error (if s.frameShared then .frameShared else .outsideFrame) := by
  cases hw : writeHeader code version s with
  | ok t =>
    exfalso
    unfold writeHeader at hw
    simp only [bind, Except.bind] at hw
    split at hw
    · cases hw
    rename_i s1 h1
    split at hw
    · cases hw
    rename_i s2 h2
    split at hw
    · cases hw
    rename_i s3 h3
    obtain ⟨-, rfl⟩ := memWrite_ok h1
    obtain ⟨-, rfl⟩ := memWrite_ok h2
    obtain ⟨hr, -⟩ := memWrite_ok h3
    simp [subHeaderZeros, State.storedAll] at hr
    exact h ⟨hr.1, hr.2⟩
  | error e =>
    have key : ∀ (a : Nat) (vs : List Byte) (u : State), u.frameShared = s.frameShared →
        ∀ e, memWrite a vs u = .error e → e = if s.frameShared then .frameShared else .outsideFrame := by
      intro a vs u hu e he
      by_cases hr : vs = [] ∨ u.FrameReady (a + vs.length)
      · rw [memWrite_ready hr] at he
        cases he
      · rw [memWrite_refused hr, hu] at he
        cases he
        rfl
    have pass : ∀ (a : Nat) (vs : List Byte) (u t : State), u.frameShared = s.frameShared →
        memWrite a vs u = .ok t → t.frameShared = s.frameShared := by
      intro a vs u t hu ht
      obtain ⟨-, rfl⟩ := memWrite_ok ht
      exact hu
    congr 1
    unfold writeHeader at hw
    simp only [bind, Except.bind] at hw
    split at hw
    · rename_i h1
      cases hw
      exact key _ _ _ rfl _ h1
    rename_i s1 h1
    have p1 := pass _ _ _ _ rfl h1
    split at hw
    · rename_i h2
      cases hw
      exact key _ _ _ p1 _ h2
    rename_i s2 h2
    have p2 := pass _ _ _ _ p1 h2
    split at hw
    · rename_i h3
      cases hw
      exact key _ _ _ p2 _ h3
    rename_i s3 h3
    have p3 := pass _ _ _ _ p2 h3
    split at hw
    · rename_i h4
      cases hw
      exact key _ _ _ p3 _ h4
    rename_i s4 h4
    exact key _ _ _ (pass _ _ _ _ p3 h4) _ hw

/-- The header writer leaves the FRAME as one store of the header's five bytes does. -/
theorem State.headed_read (code : Half) (version : Byte) (s : State) (a : Nat) :
    (s.headed code version).frame.read a =
      (s.frame.writeAll 0 (headerBytes s.cfg code version)).read a := by
  cases hb : s.cfg.byteOrder <;>
    simp only [State.headed, State.storedAll, hb, headerBytes, codeBytes, Space.writeAll_cons, Space.writeAll_nil,
      List.cons_append, List.nil_append] <;>
    by_cases h3 : a = 3 <;> by_cases h4 : a = 4 <;> simp [h3, h4, Space.read_write_other]

/-- `conclude` answers a next state exactly where its argument does, and never faults. -/
theorem conclude_next {e : Except Refusal State} {t : State} : conclude e = .next t ↔ e = .ok t := by
  cases e <;> simp [conclude]

theorem conclude_refused {e : Except Refusal State} {x : Refusal} : conclude e = .refused x ↔ e = .error x := by
  cases e <;> simp [conclude]

end Sys2Proof.Machine
end

