-- ==== Sys2Proof/Laws/FrameOps.lean ====
section
/-!
SUPPORT. What the header writer, COPY, the encode and the decode operations leave, and everything `exec` can answer.
-/
namespace Sys2Proof.Machine
open Sys2Proof

theorem fn_copy_or_nop (f : FnKind) : f = .copy ∨ f = .nop := by
  cases f <;> simp

/-! ### The header writer -/

@[simp] theorem State.headed_cfg (code : Half) (version : Byte) (s : State) :
    (s.headed code version).cfg = s.cfg := rfl
@[simp] theorem State.headed_calls (code : Half) (version : Byte) (s : State) :
    (s.headed code version).calls = s.calls := rfl
@[simp] theorem State.headed_frameShared (code : Half) (version : Byte) (s : State) :
    (s.headed code version).frameShared = s.frameShared := rfl
@[simp] theorem State.headed_body (code : Half) (version : Byte) (s : State) :
    (s.headed code version).body = s.body := rfl
@[simp] theorem State.headed_tick (code : Half) (version : Byte) (s : State) :
    (s.headed code version).tick = s.tick := rfl
@[simp] theorem State.headed_frame_base (code : Half) (version : Byte) (s : State) :
    (s.headed code version).frame.base = s.frame.base := rfl
@[simp] theorem State.headed_frame_size (code : Half) (version : Byte) (s : State) :
    (s.headed code version).frame.size = s.frame.size := rfl
@[simp] theorem State.headed_frame_fill (code : Half) (version : Byte) (s : State) :
    (s.headed code version).frame.fill = s.frame.fill := rfl

/-- The header writer's accesses. -/
theorem State.headed_bus (code : Half) (version : Byte) (s : State) :
    (s.headed code version).bus = s.bus ++ headerAccesses s.cfg code version := by
  cases h : s.cfg.byteOrder <;>
    simp [State.headed, State.storedAll, writesFrom, codeBytes, headerAccesses, h, lowByte, highByte]

/-- The header writer leaves the rest of the state alone. -/
theorem State.headed_keepsRest (code : Half) (version : Byte) (s : State) : KeepsRest s (s.headed code version) := by
  simp [KeepsRest]

/-- The header writer leaves every FRAME byte from address 5 on alone. -/
theorem State.headed_outside (code : Half) (version : Byte) (s : State) {a : Nat} (h : 5 ≤ a) :
    (s.headed code version).frame.read a = s.frame.read a := by
  rw [State.headed_read, Space.read_writeAll, dif_neg]
  simp [headerBytes, codeBytes_length]
  omega

/-- Each of the header's bytes. -/
theorem State.headed_byte (code : Half) (version : Byte) (s : State) {a : Nat}
    (h : a < (headerBytes s.cfg code version).length) :
    (s.headed code version).frame.read a = (headerBytes s.cfg code version)[a] := by
  rw [State.headed_read, Space.read_writeAll, dif_pos (by omega)]
  simp

/-- Everything the header writer can answer. -/
theorem writeHeader_ok {code : Half} {version : Byte} {s t : State} (h : writeHeader code version s = .ok t) :
    s.FrameReady 5 ∧ t = s.headed code version := by
  by_cases hr : s.FrameReady 5
  · rw [writeHeader_ready hr] at h
    cases h
    exact ⟨hr, rfl⟩
  · rw [writeHeader_refused hr] at h
    cases h

/-- The header writer keeps the canonical form. -/
theorem State.headed_wf (code : Half) (version : Byte) {s : State} (hr : 5 ≤ s.frame.size) (h : s.frame.wf = true) :
    (s.headed code version).frame.wf = true := by
  simp only [State.headed, State.storedAll]
  refine Space.writeAll_wf _ (.inl ?_) (Space.writeAll_wf _ (.inl ?_) (Space.writeAll_wf _ (.inl ?_)
    (Space.writeAll_wf _ (.inl ?_) (Space.writeAll_wf _ (.inl ?_) h)))) <;>
    simp [codeBytes_length] <;> omega

/-! ### COPY -/

@[simp] theorem State.copied_cfg (i n : Nat) (s : State) : (s.copied i n).cfg = s.cfg := rfl
@[simp] theorem State.copied_calls (i n : Nat) (s : State) : (s.copied i n).calls = s.calls := rfl
@[simp] theorem State.copied_frameShared (i n : Nat) (s : State) : (s.copied i n).frameShared = s.frameShared := rfl
@[simp] theorem State.copied_body (i n : Nat) (s : State) : (s.copied i n).body = s.body := rfl
@[simp] theorem State.copied_tick (i n : Nat) (s : State) : (s.copied i n).tick = s.tick := rfl
@[simp] theorem State.copied_frame_base (i n : Nat) (s : State) : (s.copied i n).frame.base = s.frame.base := rfl
@[simp] theorem State.copied_frame_size (i n : Nat) (s : State) : (s.copied i n).frame.size = s.frame.size := rfl
@[simp] theorem State.copied_frame_fill (i n : Nat) (s : State) : (s.copied i n).frame.fill = s.frame.fill := rfl

theorem copyAccessesFrom_eq (sp : Space) (i n : Nat) :
    copyAccessesFrom sp i n =
      (List.range n).flatMap fun j => [.bodyRead (i + j), .frameWrite (5 + (i + j)) (sp.read (i + j))] := by
  induction n generalizing i with
  | zero => rfl
  | succ n ih =>
    rw [List.range_succ_eq_map, List.flatMap_cons, List.flatMap_map]
    simp only [copyAccessesFrom, ih]
    simp [Nat.add_assoc, Nat.add_comm, Nat.add_left_comm]

/-- COPY's accesses. -/
theorem State.copied_bus (n : Nat) (s : State) : (s.copied 0 n).bus = s.bus ++ copyAccesses s n := by
  simp [State.copied, copyAccessesFrom_eq, copyAccesses]

/-- What every FRAME byte reads as after COPY. -/
theorem State.copied_read (s : State) (n a : Nat) :
    (s.copied 0 n).frame.read a = if 5 ≤ a ∧ a < 5 + n then s.body.read (a - 5) else s.frame.read a := by
  simp only [State.copied, Space.read_writeAll, bodyBytes_length, Nat.add_zero]
  split
  · rw [bodyBytes_getElem]
    simp
  · rfl

/-- COPY keeps the canonical form. -/
theorem State.copied_wf (n : Nat) {s : State} (hr : n = 0 ∨ 5 + n ≤ s.frame.size) (h : s.frame.wf = true) :
    (s.copied 0 n).frame.wf = true := by
  refine Space.writeAll_wf _ ?_ h
  rcases hr with rfl | hr
  · exact .inr rfl
  · exact .inl (by simpa using hr)

/-- Why an operation that is given a body of `len` bytes is refused: the body first, then the FRAME. -/
def State.refusal (len : Nat) (s : State) : Refusal :=
  if s.bodyOverlaps len then .bodyOverlapsFrame
  else if s.body.size < len then .bodyTooShort
  else if s.frameShared then .frameShared
  else .outsideFrame

theorem State.refusal_body {len : Nat} {s : State} (h : ¬ s.BodyReady len) :
    s.refusal len = if s.bodyOverlaps len then .bodyOverlapsFrame else .bodyTooShort := by
  have hr := requireBody_refused h
  unfold requireBody at hr
  unfold State.refusal
  split
  · rfl
  · rename_i h1
    rw [if_neg h1] at hr
    split at hr
    · rename_i h2
      rw [if_pos h2]
    · cases hr

theorem State.refusal_frame {len : Nat} {s : State} (h : s.BodyReady len) :
    s.refusal len = if s.frameShared then .frameShared else .outsideFrame := by
  have h1 : s.bodyOverlaps len = false := h.1
  simp [State.refusal, h1, Nat.not_lt.mpr h.2]

/-- A refusal is for one of the reasons of R185. -/
theorem State.refusal_cases (len : Nat) (s : State) :
    s.refusal len = .outsideFrame ∨ s.refusal len = .bodyTooShort ∨ s.refusal len = .bodyOverlapsFrame ∨
      s.refusal len = .frameShared := by
  unfold State.refusal
  split_ifs <;> simp

/-- COPY alone answers where the caller has provided for it. -/
theorem execCopy_ready {n : Half} {s : State} (h : s.CopyReady n.toNat) :
    execCopy n s = .next ((s.start.copied 0 n.toNat).answer (onResultPort n)) := by
  obtain ⟨h1, h2⟩ := h
  have hc : copyFrom 0 n.toNat s.start = .ok (s.start.copied 0 n.toNat) := copyFrom_ready (by
    rcases h2 with h2 | h2
    · exact .inl h2
    · exact .inr ⟨by simpa using h1.2, h2.1, by have := h2.2; simpa [fixedHeaderLen] using this⟩)
  simp [execCopy, requireBody_ready h1, runBodyEncoder, hc, bind, Except.bind, pure, Except.pure, conclude]

/-- COPY alone is refused elsewhere. -/
theorem execCopy_refused {n : Half} {s : State} (h : ¬ s.CopyReady n.toNat) :
    execCopy n s = .refused (s.refusal n.toNat) := by
  by_cases h1 : s.BodyReady n.toNat
  · have hc := copyFrom_noRoom (i := 0) (n := n.toNat) (s := s.start) (by simpa using h1.2)
      (fun h0 => h ⟨h1, .inl h0⟩) (fun h2 => h ⟨h1, .inr ⟨h2.1, by have := h2.2; simpa [fixedHeaderLen] using this⟩⟩)
    rw [State.refusal_frame h1]
    simp only [execCopy, requireBody_ready h1, runBodyEncoder, hc, bind, Except.bind, conclude]
    rfl
  · rw [State.refusal_body h1]
    simp [execCopy, requireBody_refused h1, bind, Except.bind, conclude]

/-! ### The encode operations -/

/-- The state after an encode operation. -/
def State.encoded (v : Variant) (lt len : Half) (s : State) : State :=
  let code := mkCode s.cfg (variantCode v) lt
  let d := dispatchLookup s.cfg (variantCode v) lt len
  let h := s.start.headed code (versionFor s.cfg ((upEntity code).setWidth 16))
  (if d.fn = .copy then h.copied 0 len.toNat else h).answer d.total

/-- The combined code an encode operation writes. -/
abbrev encodedCode (v : Variant) (lt : Half) (k : Config) : Half :=
  mkCode k (variantCode v) lt

/-- The version byte an encode operation writes. -/
abbrev encodedVersion (v : Variant) (lt : Half) (k : Config) : Byte :=
  versionFor k ((upEntity (encodedCode v lt k)).setWidth 16)

theorem exec_encodeInstr (v : Variant) (lt len : Half) (s : State) :
    exec (encodeInstr v lt len) s = conclude (encodeFrame v lt len s) := by
  cases v <;> rfl

theorem dispatchLookup_n (k : Config) (v lt len : Half) :
    (dispatchLookup k v lt len).n = if (dispatchLookup k v lt len).fn = .copy then len else 0 := rfl

/-- An encode operation answers where the caller has provided for it. -/
theorem encodeFrame_ready {v : Variant} {lt len : Half} {s : State} (h : s.EncodeReady v lt len) :
    encodeFrame v lt len s = .ok (s.encoded v lt len) := by
  obtain ⟨h1, h2, h3⟩ := h
  have hw := fun code version => writeHeader_ready (code := code) (version := version) (s := s.start) h2
  unfold encodeFrame
  simp only [requireBody_ready h1, bind, Except.bind, hw, pure, Except.pure, State.headed_cfg, State.start_cfg]
  rcases fn_copy_or_nop (dispatchLookup s.cfg (variantCode v) lt len).fn with hf | hf
  · have h4 := h3 hf
    have hc : ∀ code ver, copyFrom 0 len.toNat (s.start.headed code ver) =
        .ok ((s.start.headed code ver).copied 0 len.toNat) := fun code ver => copyFrom_ready
      (.inr ⟨by rw [Nat.zero_add]; exact h1.2, h4.1, by have := h4.2; simp only [fixedHeaderLen] at this; exact this⟩)
    have hn : (dispatchLookup s.cfg (variantCode v) lt len).n = len := by rw [dispatchLookup_n, if_pos hf]
    simp only [hf, hn, runBodyEncoder, hc]
    simp [State.encoded, hf]
  · simp only [hf, runBodyEncoder]
    simp [State.encoded, hf]

/-- An encode operation is refused elsewhere. -/
theorem encodeFrame_refused {v : Variant} {lt len : Half} {s : State} (h : ¬ s.EncodeReady v lt len) :
    encodeFrame v lt len s = .error (s.refusal len.toNat) := by
  unfold encodeFrame
  by_cases h1 : s.BodyReady len.toNat
  · rw [State.refusal_frame h1]
    simp only [requireBody_ready h1, bind, Except.bind]
    by_cases h2 : s.start.FrameReady 5
    · rw [writeHeader_ready h2]
      dsimp only
      rcases fn_copy_or_nop (dispatchLookup s.cfg (variantCode v) lt len).fn with hf | hf
      · have hn : (dispatchLookup s.cfg (variantCode v) lt len).n = len := by rw [dispatchLookup_n, if_pos hf]
        have hno : ¬ s.FrameReady (5 + len.toNat) := fun hr => h ⟨h1, h2, fun _ => hr⟩
        have h0 : len.toNat ≠ 0 := fun h0 => hno (by rw [h0]; exact h2)
        have hc := copyFrom_noRoom (i := 0) (n := len.toNat)
          (s := s.start.headed (encodedCode v lt s.cfg) (encodedVersion v lt s.cfg)) (by simpa using h1.2) h0
          (fun hr => hno ⟨hr.1, hr.2⟩)
        simp only [State.headed_cfg, State.start_cfg, hf, hn, runBodyEncoder, hc]
        rfl
      · exact absurd ⟨h1, h2, fun hc => by rw [hf] at hc; cases hc⟩ h
    · rw [writeHeader_refused h2]
      rfl
  · rw [State.refusal_body h1]
    simp [requireBody_refused h1, bind, Except.bind]

/-- Everything an encode operation can answer. -/
theorem encodeFrame_ok {v : Variant} {lt len : Half} {s t : State} (h : encodeFrame v lt len s = .ok t) :
    s.EncodeReady v lt len ∧ t = s.encoded v lt len := by
  by_cases hr : s.EncodeReady v lt len
  · rw [encodeFrame_ready hr] at h
    cases h
    exact ⟨hr, rfl⟩
  · rw [encodeFrame_refused hr] at h
    cases h

/-- An encode operation leaves the rest of the state alone. -/
theorem State.encoded_keepsRest (v : Variant) (lt len : Half) (s : State) : KeepsRest s (s.encoded v lt len) := by
  unfold State.encoded
  dsimp only
  split <;> simp [KeepsRest]

/-- What every FRAME byte reads as after an encode operation. -/
theorem State.encoded_read (v : Variant) (lt len : Half) (s : State) (a : Nat) :
    (s.encoded v lt len).frame.read a =
      if (dispatchLookup s.cfg (variantCode v) lt len).fn = .copy ∧ 5 ≤ a ∧ a < 5 + len.toNat then s.body.read (a - 5)
      else (s.start.headed (encodedCode v lt s.cfg) (encodedVersion v lt s.cfg)).frame.read a := by
  unfold State.encoded
  dsimp only
  split
  · rename_i hf
    rw [State.answer_frame, State.copied_read]
    simp [hf]
  · rename_i hf
    simp [hf]

/-- An encode operation's accesses. -/
theorem State.encoded_bus (v : Variant) (lt len : Half) (s : State) :
    (s.encoded v lt len).bus = headerAccesses s.cfg (encodedCode v lt s.cfg) (encodedVersion v lt s.cfg) ++
      (if (dispatchLookup s.cfg (variantCode v) lt len).fn = .copy then copyAccesses s len.toNat else []) := by
  unfold State.encoded
  dsimp only
  split
  · rw [State.answer_bus, State.copied_bus, State.headed_bus]
    simp [copyAccesses]
  · rw [State.answer_bus, State.headed_bus]
    simp

@[simp] theorem State.encoded_dp (v : Variant) (lt len : Half) (s : State) :
    (s.encoded v lt len).dp = Config.undrivenDp s.tick := by
  unfold State.encoded
  dsimp only
  split <;> simp
@[simp] theorem State.encoded_tick (v : Variant) (lt len : Half) (s : State) :
    (s.encoded v lt len).tick = s.tick + 1 := by
  unfold State.encoded
  dsimp only
  split <;> simp
@[simp] theorem State.encoded_r (v : Variant) (lt len : Half) (s : State) :
    (s.encoded v lt len).r = (dispatchLookup s.cfg (variantCode v) lt len).total := rfl
@[simp] theorem State.encoded_ill (v : Variant) (lt len : Half) (s : State) :
    (s.encoded v lt len).ill = false := rfl

/-- An encode operation keeps the canonical form. -/
theorem State.encoded_wf {v : Variant} {lt len : Half} {s : State} (hr : s.EncodeReady v lt len)
    (h : s.frame.wf = true) : (s.encoded v lt len).frame.wf = true := by
  have hh := State.headed_wf (s := s.start) (encodedCode v lt s.cfg) (encodedVersion v lt s.cfg) hr.2.1.2 h
  unfold State.encoded
  dsimp only
  split
  · rename_i hf
    rw [State.answer_frame]
    exact State.copied_wf _ (.inr (hr.2.2 hf).2) hh
  · exact hh

/-! ### The decode operations -/

/-- A decode operation answers where the FRAME has its first three bytes. -/
theorem decodeFrame_ready (f : Config → Half → Count) {s : State} (h : s.FrameReady 3) :
    decodeFrame f s = .ok (((s.start.noted (.frameRead 1)).noted (.frameRead 2)).answer
      (f s.cfg (codeOf s.cfg.byteOrder (s.frame.read 1) (s.frame.read 2)))) := by
  have h' : s.start.FrameReady 3 := h
  unfold decodeFrame
  rw [readCode_ready h']
  rfl

/-- A decode operation is refused elsewhere. -/
theorem decodeFrame_refused (f : Config → Half → Count) {s : State} (h : ¬ s.FrameReady 3) :
    decodeFrame f s = .error (if s.frameShared then .frameShared else .outsideFrame) := by
  have h' : ¬ s.start.FrameReady 3 := h
  unfold decodeFrame
  rw [readCode_refused h']
  rfl

/-! ### SETHDR and HDRWR -/

theorem execSethdr_ready {v e lt : Half} {s : State} (h : s.FrameReady 5) :
    execSethdr v e lt s =
      .next ((s.start.headed (setHdrCode s.cfg v e lt) (versionFor s.cfg e)).answer statusOk) := by
  have hw := writeHeader_ready (code := setHdrCode s.cfg v e lt) (version := versionFor s.cfg e) (s := s.start) h
  simp [execSethdr, hw, bind, Except.bind, pure, Except.pure, conclude]

theorem execSethdr_refused {v e lt : Half} {s : State} (h : ¬ s.FrameReady 5) :
    execSethdr v e lt s = .refused (if s.frameShared then .frameShared else .outsideFrame) := by
  have hw := writeHeader_refused (code := setHdrCode s.cfg v e lt) (version := versionFor s.cfg e) (s := s.start) h
  simp only [execSethdr, hw, bind, Except.bind, conclude]
  rfl

theorem execHdrwr_ready {code b : Half} {s : State} (h : s.FrameReady 5) :
    execHdrwr code b s = .next ((s.start.headed code (lowByte b)).answer 0) := by
  have hw := writeHeader_ready (code := code) (version := lowByte b) (s := s.start) h
  simp [execHdrwr, hw, bind, Except.bind, pure, Except.pure, conclude]

theorem execHdrwr_refused {code b : Half} {s : State} (h : ¬ s.FrameReady 5) :
    execHdrwr code b s = .refused (if s.frameShared then .frameShared else .outsideFrame) := by
  have hw := writeHeader_refused (code := code) (version := lowByte b) (s := s.start) h
  simp only [execHdrwr, hw, bind, Except.bind, conclude]
  rfl

/-! ### All operations -/

/-- Everything `exec` can answer. -/
inductive Answers (s : State) : Instr → State → Prop
  /-- An operation without an access: it answers the same in every state with the same parameters. -/
  | pure (i : Instr) (r : Count) : writeRange s i = (0, 0) →
      (∀ s' : State, s'.cfg = s.cfg → exec i s' = .next (s'.start.answer r)) → Answers s i (s.start.answer r)
  | disp (v lt len : Half) : Answers s (.disp v lt len) (s.start.answerDp (dispatchLookup s.cfg v lt len))
  | encode (v : Variant) (lt len : Half) : s.EncodeReady v lt len →
      Answers s (encodeInstr v lt len) (s.encoded v lt len)
  | sethdr (v e lt : Half) : s.FrameReady 5 → Answers s (.sethdr v e lt)
      ((s.start.headed (setHdrCode s.cfg v e lt) (versionFor s.cfg e)).answer statusOk)
  | hdrwr (code b : Half) : s.FrameReady 5 → Answers s (.hdrwr code b)
      ((s.start.headed code (lowByte b)).answer 0)
  | decode (i : Instr) (r : Count) : i ∈ [Instr.declt, .decvar, .decent, .decoff] → s.FrameReady 3 →
      Answers s i (((s.start.noted (.frameRead 1)).noted (.frameRead 2)).answer r)
  | copy (n : Half) : s.CopyReady n.toNat → Answers s (.copy n)
      ((s.start.copied 0 n.toNat).answer (onResultPort n))

theorem exec_answers {i : Instr} {s t : State} (h : exec i s = .next t) : Answers s i t := by
  have henc : ∀ v lt len, exec (encodeInstr v lt len) s = .next t → Answers s (encodeInstr v lt len) t := by
    intro v lt len h
    rw [exec_encodeInstr] at h
    obtain ⟨hr, rfl⟩ := encodeFrame_ok (conclude_next.mp h)
    exact .encode v lt len hr
  have hdec : ∀ i f, i ∈ [Instr.declt, .decvar, .decent, .decoff] →
      conclude (decodeFrame f s) = .next t → Answers s i t := by
    intro i f hi h
    by_cases hr : s.FrameReady 3
    · rw [decodeFrame_ready f hr] at h
      cases h
      exact .decode i _ hi hr
    · rw [decodeFrame_refused f hr] at h
      cases h
  cases i with
  | encreq lt len => exact henc .req lt len h
  | enccnf lt len => exact henc .cnf lt len h
  | encind lt len => exact henc .ind lt len h
  | encrsp lt len => exact henc .rsp lt len h
  | sethdr v e lt =>
    have h : execSethdr v e lt s = .next t := h
    by_cases hr : s.FrameReady 5
    · rw [execSethdr_ready hr] at h
      cases h
      exact .sethdr _ _ _ hr
    · rw [execSethdr_refused hr] at h
      cases h
  | hdrwr code b =>
    have h : execHdrwr code b s = .next t := h
    by_cases hr : s.FrameReady 5
    · rw [execHdrwr_ready hr] at h
      cases h
      exact .hdrwr _ _ hr
    · rw [execHdrwr_refused hr] at h
      cases h
  | declt => exact hdec _ _ (by simp) h
  | decvar => exact hdec _ _ (by simp) h
  | decent => exact hdec _ _ (by simp) h
  | decoff => exact hdec _ _ (by simp) h
  | copy n =>
    have h : execCopy n s = .next t := h
    by_cases hr : s.CopyReady n.toNat
    · rw [execCopy_ready hr] at h
      cases h
      exact .copy n hr
    · rw [execCopy_refused hr] at h
      cases h
  | disp v lt len =>
    cases h
    exact .disp v lt len
  | lt2wc lt =>
    cases h
    exact .pure _ _ rfl fun s' hs => by simp [exec, execLt2wc, hs]
  | wc2lt code =>
    cases h
    exact .pure _ _ rfl fun s' hs => by simp [exec, execWc2lt, hs]
  | versel e =>
    cases h
    exact .pure _ _ rfl fun s' hs => by simp [exec, execVersel, hs]
  | _ =>
    cases h
    exact .pure _ _ rfl fun s' _ => rfl

end Sys2Proof.Machine
end

