-- ==== Sys2Proof/Laws/PerInstr.lean ====
section
/-!
SUPPORT. Families of statements about every operation as syntax, one lemma per constructor.
-/
namespace Sys2Proof.Laws
open Sys2Proof Sys2Proof.Machine

/-- The select of a word is its `op` (R90). -/
theorem opField_opWord (p : Select) (a b c : Half) : opField (opWord p a b c) = p := by
  apply BitVec.eq_of_getLsbD_eq
  intro i hi
  simp only [opWord, opField]
  simp
  interval_cases i <;> simp [BitVec.getLsbD_of_ge]

/-- No operation is encoded with a reserved select (R92). -/
def SelectNotReserved.Statement (i : Instr) : Prop :=
  ∀ w : OpWord, encode i = .op w → illFlag (opField w) = false

theorem SelectNotReserved.of_opWord {i : Instr} (p : Select) (a b c : Half) (h : encode i = .op (opWord p a b c))
    (hp : illFlag p = false) : SelectNotReserved.Statement i := by
  intro w hw
  rw [h] at hw
  cases hw
  rwa [opField_opWord]

theorem SelectNotReserved.pack (v e o : Half) : SelectNotReserved.Statement (.pack v e o) :=
  SelectNotReserved.of_opWord 0x00 _ _ _ rfl rfl

theorem SelectNotReserved.upv (k : Half) : SelectNotReserved.Statement (.upv k) :=
  SelectNotReserved.of_opWord 0x01 _ _ _ rfl rfl

theorem SelectNotReserved.upe (k : Half) : SelectNotReserved.Statement (.upe k) :=
  SelectNotReserved.of_opWord 0x02 _ _ _ rfl rfl

theorem SelectNotReserved.upo (k : Half) : SelectNotReserved.Statement (.upo k) :=
  SelectNotReserved.of_opWord 0x03 _ _ _ rfl rfl

theorem SelectNotReserved.lt2wc (t : Half) : SelectNotReserved.Statement (.lt2wc t) :=
  SelectNotReserved.of_opWord 0x04 _ _ _ rfl rfl

theorem SelectNotReserved.wc2lt (k : Half) : SelectNotReserved.Statement (.wc2lt k) :=
  SelectNotReserved.of_opWord 0x05 _ _ _ rfl rfl

theorem SelectNotReserved.disp (v t n : Half) : SelectNotReserved.Statement (.disp v t n) :=
  SelectNotReserved.of_opWord 0x06 _ _ _ rfl rfl

theorem SelectNotReserved.versel (e : Half) : SelectNotReserved.Statement (.versel e) :=
  SelectNotReserved.of_opWord 0x07 _ _ _ rfl rfl

theorem SelectNotReserved.encreq (t n : Half) : SelectNotReserved.Statement (.encreq t n) :=
  SelectNotReserved.of_opWord 0x08 _ _ _ rfl rfl

theorem SelectNotReserved.enccnf (t n : Half) : SelectNotReserved.Statement (.enccnf t n) :=
  SelectNotReserved.of_opWord 0x09 _ _ _ rfl rfl

theorem SelectNotReserved.encind (t n : Half) : SelectNotReserved.Statement (.encind t n) :=
  SelectNotReserved.of_opWord 0x0A _ _ _ rfl rfl

theorem SelectNotReserved.encrsp (t n : Half) : SelectNotReserved.Statement (.encrsp t n) :=
  SelectNotReserved.of_opWord 0x0B _ _ _ rfl rfl

theorem SelectNotReserved.sethdr (v e t : Half) : SelectNotReserved.Statement (.sethdr v e t) :=
  SelectNotReserved.of_opWord 0x0C _ _ _ rfl rfl

theorem SelectNotReserved.hdrwr (k b : Half) : SelectNotReserved.Statement (.hdrwr k b) :=
  SelectNotReserved.of_opWord 0x0D _ _ _ rfl rfl

theorem SelectNotReserved.declt : SelectNotReserved.Statement .declt :=
  SelectNotReserved.of_opWord 0x10 _ _ _ rfl rfl

theorem SelectNotReserved.decvar : SelectNotReserved.Statement .decvar :=
  SelectNotReserved.of_opWord 0x11 _ _ _ rfl rfl

theorem SelectNotReserved.decent : SelectNotReserved.Statement .decent :=
  SelectNotReserved.of_opWord 0x12 _ _ _ rfl rfl

theorem SelectNotReserved.decoff : SelectNotReserved.Statement .decoff :=
  SelectNotReserved.of_opWord 0x13 _ _ _ rfl rfl

theorem SelectNotReserved.copy (n : Half) : SelectNotReserved.Statement (.copy n) :=
  fun _ h => nomatch h

theorem SelectNotReserved.nop : SelectNotReserved.Statement .nop :=
  fun _ h => nomatch h

end Sys2Proof.Laws
end

