-- ==== Sys2Proof/Tests/Slice0.lean ====
section
/-!
SUPPORT. Tests. Expected words are written out from `30_encoding.md` R90 and R91, expected results are the vectors of
`95_test_vectors.md` and the examples of the operations' rules, unless a comment says otherwise.
-/
namespace Sys2Proof.Tests
open Sys2Proof Sys2Proof.Machine

/-! ### The parameter checks -/

/-- The defaults of R6. -/
def ref : Config := referenceConfig .modeA

theorem test_reference_is_legal : ref.legal = true := by decide
theorem test_equal_entity_codes_refused :
    Config.entityCodesDistinct { ref with eVendor := 4 } = false ∧ Config.legal { ref with eVendor := 4 } = false := by
  decide
theorem test_sta_sta_zero_refused :
    Config.staStaNotZero { ref with eStaSta := 0, eStaCco := 3 } = false ∧
      Config.legal { ref with eStaSta := 0, eStaCco := 3 } = false := by
  decide
theorem test_version_zero_refused :
    Config.versionNotZero { ref with protoVersion := 0 } = false ∧ Config.legal { ref with protoVersion := 0 } = false := by
  decide
theorem test_rom_without_slac_parm_refused :
    Config.romHasSlacParmRequest { ref with dispatchRom := [⟨1, 8, .copy⟩] } = false ∧
      Config.legal { ref with dispatchRom := [⟨1, 8, .copy⟩] } = false := by
  decide
theorem test_rom_with_validate_refused :
    Config.romLacksValidate { ref with dispatchRom := [⟨0, 8, .copy⟩, ⟨3, 13, .copy⟩] } = false ∧
      Config.legal { ref with dispatchRom := [⟨0, 8, .copy⟩, ⟨3, 13, .copy⟩] } = false := by
  decide
theorem test_rom_with_nop_refused :
    Config.romAllCopy { ref with dispatchRom := [⟨0, 8, .copy⟩, ⟨1, 8, .nop⟩] } = false ∧
      Config.legal { ref with dispatchRom := [⟨0, 8, .copy⟩, ⟨1, 8, .nop⟩] } = false := by
  decide
theorem test_rom_outside_enumeration_refused :
    Config.romInEnumeration { ref with dispatchRom := [⟨0, 8, .copy⟩, ⟨0, 17, .copy⟩] } = false ∧
      Config.legal { ref with dispatchRom := [⟨0, 8, .copy⟩, ⟨0, 17, .copy⟩] } = false := by
  decide
theorem test_rom_empty_refused :
    Config.romNotEmpty { ref with dispatchRom := [] } = false ∧ Config.legal { ref with dispatchRom := [] } = false := by
  decide

/-! ### Decoding: op in 5 digits, then a, b, c in 16 each -/

theorem test_decode_pack : decode (.op 0b00000000000000000000100000000000000110000000000011001) = .ok (.pack 1 3 0x19) := by decide
theorem test_decode_upv : decode (.op 0b00001011000000110010100000000000000000000000000000000) = .ok (.upv 0x6065) := by decide
theorem test_decode_upe : decode (.op 0b00010111111111111111100000000000000000000000000000000) = .ok (.upe 0xFFFF) := by decide
theorem test_decode_upo : decode (.op 0b00011000100100011010000000000000000000000000000000000) = .ok (.upo 0x1234) := by decide
theorem test_decode_lt2wc : decode (.op 0b00100000000000000111000000000000000000000000000000000) = .ok (.lt2wc 14) := by decide
theorem test_decode_wc2lt : decode (.op 0b00101011000000111110100000000000000000000000000000000) = .ok (.wc2lt 0x607D) := by decide
theorem test_decode_disp : decode (.op 0b00110000000000000000000000000000010000000000000001010) = .ok (.disp 0 8 10) := by decide
theorem test_decode_versel : decode (.op 0b00111000000000000010100000000000000000000000000000000) = .ok (.versel 5) := by decide
theorem test_decode_encreq : decode (.op 0b01000000000000000100000000000000010100000000000000000) = .ok (.encreq 8 10) := by decide
theorem test_decode_enccnf : decode (.op 0b01001000000000000110100000000000010100000000000000000) = .ok (.enccnf 13 10) := by decide
theorem test_decode_encind : decode (.op 0b01010000000000001000100000000000001000000000000000000) = .ok (.encind 17 4) := by decide
theorem test_decode_encrsp : decode (.op 0b01011000000000000110100000000000000000000000000000000) = .ok (.encrsp 13 0) := by decide
theorem test_decode_sethdr : decode (.op 0b01100000000000000000000000000000001010000000000001000) = .ok (.sethdr 0 5 8) := by decide
theorem test_decode_hdrwr : decode (.op 0b01101011000000110010000000000000000010000000000000000) = .ok (.hdrwr 0x6064 1) := by decide
theorem test_decode_declt : decode (.op 0b10000000000000000000000000000000000000000000000000000) = .ok (.declt) := by decide
theorem test_decode_decvar : decode (.op 0b10001000000000000000000000000000000000000000000000000) = .ok (.decvar) := by decide
theorem test_decode_decent : decode (.op 0b10010000000000000000000000000000000000000000000000000) = .ok (.decent) := by decide
theorem test_decode_decoff : decode (.op 0b10011000000000000000000000000000000000000000000000000) = .ok (.decoff) := by decide
theorem test_decode_copy : decode (.fn 1 10) = .ok (.copy 10) ∧ decodeTableWord 8 1 = some (.copy 0) := by decide
theorem test_decode_nop : decode (.fn 0 10) = .ok .nop ∧ decodeTableWord 8 0 = some .nop := by decide
/-- An operand the operation does not use is ignored (R31). -/
theorem test_decode_ignores_unused : decode (.op 0b00001011000000110010111111111111111111111111111111111) = .ok (.upv 0x6065) := by
  decide
/-- The numbering of the table: the match of HDRWR's row, with a = 0x6064 and b = 1. -/
theorem test_decode_table_word : decodeTableWord 56 0x0D606400010000 = some (.hdrwr 0x6064 1) := by decide
theorem test_reserved_selects_decode_to_nothing :
    ([0x0E, 0x0F] ++ (List.range 12).map (· + 0x14)).all (fun p => (decodeTableWord 56 (p * 2 ^ 48)).isNone) = true := by
  decide

/-! ### Execution -/

/-- Bytes at consecutive addresses. -/
def cellsFrom : Nat → List Byte → Memory
  | _, [] => []
  | a, v :: vs => (a, v) :: cellsFrom (a + 1) vs

/-- A FRAME of `n` bytes 0x55 and the BODY A0 to A9, as the programs of the vectors have them. -/
def demo (k : Config) (n : Nat) : State :=
  { State.reset with
    cfg := k, frame := ⟨0, n, 0, cellsFrom 0 (List.replicate n 0x55)⟩,
    body := ⟨1000, 10, 1, cellsFrom 0 [0xA0, 0xA1, 0xA2, 0xA3, 0xA4, 0xA5, 0xA6, 0xA7, 0xA8, 0xA9]⟩ }

/-- The result and the FRAME after an operation. -/
def after (i : Instr) (s : State) : Option (Nat × List Nat) :=
  match exec i s with
  | .next t => some (t.r.toNat, (List.range t.frame.size).map fun a => (t.frame.read a).toNat)
  | _ => none

/-- The result of an operation. -/
def result (i : Instr) : Option Nat :=
  (after i (demo ref 0)).map (·.1)

/-- The result of an operation on a received FRAME. -/
def received (o : ByteOrder) (bytes : List Byte) (i : Instr) : Option Nat :=
  let s := demo { ref with byteOrder := o } 0
  (after i { s with frame := ⟨0, bytes.length, 0, cellsFrom 0 bytes⟩ }).map (·.1)

theorem test_pack_truncates : result (.pack 5 9 0x819) = some 0x2065 ∧ result (.pack 4 8 0x800) = some 0 := by decide
theorem test_pack_all_ones : result (.pack 0xFFFF 0xFFFF 0xFFFF) = some 0xFFFF := by decide
theorem test_upv : result (.upv 0x607E) = some 2 ∧ result (.upv 0x8000) = some 0 := by decide
theorem test_upe : result (.upe 0xA014) = some 5 ∧ result (.upe 0xFFFF) = some 7 := by decide
theorem test_upo : result (.upo 0x1234) = some 0x48D ∧ result (.upo 0x6460) = some 0x118 := by decide
theorem test_lt2wc_in_range :
    result (.lt2wc 0) = some 0x0014 ∧ result (.lt2wc 3) = some 0x600C ∧ result (.lt2wc 4) = some 0x6020 ∧
      result (.lt2wc 14) = some 0x607C := by
  decide
theorem test_lt2wc_out_of_range : result (.lt2wc 17) = some 0 ∧ result (.lt2wc 0xFFFF) = some 0 := by decide
theorem test_wc2lt_recognized :
    result (.wc2lt 0x0017) = some 0 ∧ result (.wc2lt 0x601C) = some 7 ∧ result (.wc2lt 0x6034) = some 9 ∧
      result (.wc2lt 0x61F1) = some 107 := by
  decide
theorem test_wc2lt_unrecognized :
    result (.wc2lt 0) = some 17 ∧ result (.wc2lt 0x0018) = some 17 ∧ result (.wc2lt 0xA064) = some 17 := by
  decide
theorem test_disp_hit : result (.disp 0 8 10) = some 15 ∧ result (.disp 0 8 0xFFFF) = some 65540 := by decide
theorem test_disp_miss :
    result (.disp 1 13 10) = some 5 ∧ result (.disp 4 8 10) = some 5 ∧ result (.disp 0 17 10) = some 5 := by
  decide
theorem test_versel :
    result (.versel 5) = some 0 ∧ result (.versel 4) = some 0 ∧ result (.versel 3) = some 1 ∧
      result (.versel 13) = some 1 := by
  decide
theorem test_encreq_hit :
    after (.encreq 8 10) (demo ref 20) =
      some (15, [0x01, 0x64, 0x60, 0, 0, 0xA0, 0xA1, 0xA2, 0xA3, 0xA4, 0xA5, 0xA6, 0xA7, 0xA8, 0xA9,
        0x55, 0x55, 0x55, 0x55, 0x55]) := by
  decide
theorem test_encreq_big_endian :
    after (.encreq 8 0) (demo { ref with byteOrder := .be } 6) = some (5, [0x01, 0x60, 0x64, 0, 0, 0x55]) := by
  decide
theorem test_enccnf_miss : after (.enccnf 13 10) (demo ref 6) = some (5, [0x01, 0x79, 0x60, 0, 0, 0x55]) := by decide
theorem test_encind_out_of_range : after (.encind 17 4) (demo ref 6) = some (5, [0x01, 0x02, 0, 0, 0, 0x55]) := by
  decide
theorem test_encrsp_miss : after (.encrsp 13 0) (demo ref 5) = some (5, [0x01, 0x7B, 0x60, 0, 0]) := by decide
theorem test_sethdr_modes :
    after (.sethdr 0 5 8) (demo (referenceConfig .modeA) 6) = some (0, [0, 0x64, 0x60, 0, 0, 0x55]) ∧
      after (.sethdr 0 5 8) (demo (referenceConfig .modeB) 6) = some (0, [0, 0x64, 0xA0, 0, 0, 0x55]) ∧
      after (.sethdr 0 5 8) (demo (referenceConfig .modeC) 6) = some (0, [0, 0x20, 0xA0, 0, 0, 0x55]) := by
  decide
theorem test_sethdr_discover_list :
    after (.sethdr 0 0 0) (demo ref 6) = some (0, [0x01, 0x14, 0, 0, 0, 0x55]) := by
  decide
theorem test_hdrwr_little_endian :
    after (.hdrwr 0x6064 0xFF01) (demo ref 6) = some (0, [0x01, 0x64, 0x60, 0, 0, 0x55]) := by
  decide
theorem test_hdrwr_big_endian :
    after (.hdrwr 0x6064 0x01) (demo { ref with byteOrder := .be } 6) = some (0, [0x01, 0x60, 0x64, 0, 0, 0x55]) := by
  decide
theorem test_declt :
    received .le [0x01, 0x7D, 0x60] .declt = some 14 ∧ received .le [0x01, 0x10, 0x60] .declt = some 4 := by
  decide
theorem test_decvar : received .le [0x01, 0x7D, 0x60] .decvar = some 1 := by decide
theorem test_decent : received .le [0x01, 0x7D, 0x60] .decent = some 3 := by decide
/-- The second reads in BE what LE wrote (R207). -/
theorem test_decoff :
    received .le [0x01, 0x7D, 0x60] .decoff = some 0x1F ∧ received .be [0x01, 0x64, 0x60] .decoff = some 0x118 := by
  decide
theorem test_copy :
    after (.copy 3) (demo ref 9) = some (3, [0x55, 0x55, 0x55, 0x55, 0x55, 0xA0, 0xA1, 0xA2, 0x55]) := by
  decide
theorem test_nop : after .nop (demo ref 6) = some (0, [0x55, 0x55, 0x55, 0x55, 0x55, 0x55]) := by decide
/-- R185: a body of 10 bytes given as 11 is refused, hit or miss; given as 10 it is not. -/
theorem test_short_body :
    after (.encreq 8 11) (demo ref 20) = none ∧ after (.encreq 13 11) (demo ref 20) = none ∧
      (after (.encreq 13 10) (demo ref 20)).map (·.1) = some 5 := by
  decide
/-- A reserved select: `ill` is 1, `r` is 0 (R92). -/
theorem test_reserved_select :
    (match step ((demo ref 6).withFetchWord 56 0x0E000000000000) with
      | .next t => decide (t.ill = true ∧ t.r = 0 ∧ t.bus = [])
      | _ => false) = true := by
  decide
theorem test_reset_memories_are_canonical : State.reset.frame.wf = true ∧ State.reset.body.wf = true := by decide

/-! ### Witnesses: for each statement with hypotheses, states and operands that meet them -/

/-- A state in which every operation can run. -/
abbrev d : State := demo ref 20

theorem witness_PackUnpackLaws :
    (5 : Half).toNat % 4 = (1 : Half).toNat % 4 ∧ (9 : Half).toNat % 8 = (1 : Half).toNat % 8 ∧
      (0x819 : Half).toNat % 2048 = (0x19 : Half).toNat % 2048 := by
  decide
theorem witness_ForwardThenInverseIsIdentity : (0 : Half).toNat ≤ 16 ∧ (16 : Half).toNat ≤ 16 := by decide
/-- Each band at its first and last offset: the canonical ones and the aliases. -/
theorem witness_InverseUnderStaStaByOffset :
    ref.legal = true ∧
      ([0x000, 0x001, 0x003, 0x007, 0x008, 0x00D, 0x00E, 0x00F, 0x010, 0x011, 0x012, 0x018, 0x019, 0x021, 0x022,
          0x7FF].map fun o => (wc2ltType ref (wireCode 3 o)).toNat) =
        [0, 1, 3, 7, 4, 9, 5, 6, 6, 7, 7, 13, 8, 16, 17, 2030] := by
  decide
theorem witness_OnlyCanonicalCodesGoBack :
    (wc2ltType ref 0x6065).toNat ≤ 16 ∧ lt2wcCode ref (wc2ltType ref 0x6065) = 0x6064 ∧
      (wc2ltType ref 0x6010).toNat ≤ 16 ∧ lt2wcCode ref (wc2ltType ref 0x6010) ≠ 0x6010 := by
  decide
theorem witness_OutOfRangeTypeDecodesToSentinel :
    17 ≤ (17 : Half).toNat ∧ 17 ≤ (0xFFFF : Half).toNat ∧ ref.eStaSta ≠ 0 ∧
      Config.eStaSta { ref with eStaSta := 0, eStaCco := 3 } = 0 := by
  decide
theorem witness_ResultsStayInRange : ref.legal = true ∧ (wc2ltType ref 0x7FFF).toNat = 2030 := by decide
theorem witness_ReservedCodeValuesAreDefined :
    ref.legal = true ∧ ((6 : Half).toNat < 8 ∧ (6 : Half).setWidth 3 ∉
        [ref.eStaCco, ref.eProxy, ref.eCcoCco, ref.eStaSta, ref.eManufacture, ref.eVendor]) ∧
      (7 : Half).setWidth 3 ∉ [ref.eStaCco, ref.eProxy, ref.eCcoCco, ref.eStaSta, ref.eManufacture, ref.eVendor] ∧
      (upEntity 0xE064 ≠ ref.eStaCco ∧ upEntity 0xE064 ≠ ref.eStaSta) ∧
      (upEntity 0x0014 = ref.eStaCco ∧ upOffset 0x0014 = 5) ∧ (upEntity 0x0018 = ref.eStaCco ∧ upOffset 0x0018 ≠ 5) ∧
      upEntity 0xA064 = ref.eVendor ∧ upEntity 0x8014 = ref.eManufacture := by
  decide
theorem witness_DispAnswersFirstExactMatch :
    ref.legal = true ∧ ref.dispatchRom = [] ++ (⟨0, 8, .copy⟩ : DispRecord) :: [] ∧
      EntryAnswers 0 8 ⟨0, 8, .copy⟩ ∧ (dispatchLookup ref 1 8 10).hit = false ∧ 4 ≤ (4 : Half).toNat ∧
      17 ≤ (17 : Half).toNat := by
  decide
theorem witness_DispatchKnownAndOpenPairs :
    ref.legal = true ∧ ((3 : Half).toNat ≤ 3 ∧ (16 : Half).toNat ≤ 16 ∧ (16 : Half) ≠ 13 ∧ ¬ ((3 : Half) = 0 ∧ (16 : Half) = 8)) ∧
      ((0 : Half).toNat ≤ 3 ∧ (0 : Half).toNat ≤ 16 ∧ (0 : Half) ≠ 13 ∧ ¬ ((0 : Half) = 0 ∧ (0 : Half) = 8)) := by
  decide
/-- The body just fits, and an empty body in no FRAME at all. -/
theorem witness_CopyMovesBodyVerbatim : (demo ref 15).CopyReady 10 ∧ (demo ref 0).CopyReady 0 := by decide
theorem witness_VerselGatesOnEntity : d.cfg.legal = true := by decide
/-- The smallest FRAME that is enough. -/
theorem witness_HdrwrWritesFiveBytes : (demo ref 5).FrameReady 5 := by decide
theorem witness_SethdrWritesHeaderByMode :
    (demo (referenceConfig .modeA) 5).FrameReady 5 ∧ (demo (referenceConfig .modeB) 5).FrameReady 5 ∧
      (demo (referenceConfig .modeC) 5).FrameReady 5 := by
  decide
/-- A hit that just fits, a miss, an out-of-range type, and a hit with an empty body. -/
theorem witness_EncodeWritesHeaderAndBody :
    ref.legal = true ∧ ((demo ref 15).EncodeReady .req 8 10 ∧ (dispatchLookup ref 0 8 10).fn = .copy) ∧
      ((demo ref 5).EncodeReady .cnf 13 10 ∧ (dispatchLookup ref 1 13 10).fn = .nop) ∧
      (demo ref 5).EncodeReady .ind 17 4 ∧ (demo ref 5).EncodeReady .rsp 16 10 ∧ (demo ref 5).EncodeReady .req 8 0 :=
  ⟨by decide, ⟨by decide, by decide⟩, ⟨by decide, by decide⟩, by decide, by decide, by decide⟩
theorem witness_EncodeAccessesInOrder :
    (demo ref 15).EncodeReady .req 8 10 ∧ (demo ref 5).EncodeReady .rsp 13 10 := by
  decide
/-- A hit beside a miss under the table that lacks the pair, and a body of no bytes. -/
theorem witness_MissShowsInTheCountOnly :
    (demo ref 15).EncodeReady .req 8 10 ∧ (demo ref 5).EncodeReady .req 8 0 ∧
      (dispatchLookup ref 0 8 10).fn = .copy ∧
      ∀ e ∈ [(⟨1, 8, .copy⟩ : DispRecord)], ¬ EntryAnswers (variantCode .req) 8 e := by
  decide
theorem witness_DecltReadsLogicalType : (demo ref 3).FrameReady 3 := by decide
theorem witness_DecodeReadsRawFields :
    (demo ref 3).FrameReady 3 ∧ (demo { ref with byteOrder := .be } 3).FrameReady 3 := by
  decide
theorem witness_EncodeThenDecodeRoundTrip :
    d.cfg.eStaSta ≠ 0 ∧ d.EncodeReady .req 8 10 ∧ d.EncodeReady .rsp 16 10 ∧ d.EncodeReady .ind 17 4 := by
  decide
theorem witness_VersionOnEncodeAndDecode_encode :
    (d.cfg.legal = true ∧ d.cfg.eVendor ≠ 0 ∧ d.cfg.eManufacture ≠ 0) ∧
      ∃ t, exec (encodeInstr .req 8 10) d = .next t :=
  ⟨by decide, _, rfl⟩
theorem witness_VersionOnEncodeAndDecode_decode :
    Instr.decoff ∈ [Instr.declt, .decvar, .decent, .decoff] ∧ ∃ t, exec .decoff d = .next t :=
  ⟨by decide, _, rfl⟩
theorem witness_ComparisonsDoNotMask : 8 ≤ (13 : Half).toNat ∧ 8 ≤ (8 : Half).toNat ∧ 4 ≤ (4 : Half).toNat := by
  decide
/-- Each end of the two reserved ranges, and the defined selects beside them. -/
theorem witness_ReservedSelectsAnswerIll :
    (opField 0x0E000000000000).toNat = 0x0E ∧ (opField 0x0F000000000000).toNat = 0x0F ∧
      0x14 ≤ (opField 0x14000000000000).toNat ∧ 0x14 ≤ (opField 0x1F000000000000).toNat ∧
      (d.withFetchWord 56 0x0E000000000000).calls = .op 0x0E000000000000 :: [] ∧
      ([0x0D000000000000, 0x10000000000000, 0x13000000000000] : List OpWord).all (fun w =>
        !decide ((opField w).toNat = 0x0E ∨ (opField w).toNat = 0x0F ∨ 0x14 ≤ (opField w).toNat)) = true := by
  decide
theorem witness_WordsAreTheirFields :
    decode (.op 0x10000000000000) = .ok .declt ∧ decode (.op 0x10FFFF00000001) = .ok .declt := by
  decide
theorem witness_StepRunsDecodedOperation :
    (d.withFetchWord 56 0x10000000000000).calls = .op 0x10000000000000 :: [] ∧
      decode (.op 0x10000000000000) = .ok .declt ∧ decodeTableWord 56 0x10000000000000 = some .declt ∧
      decodeTableWord 8 1 = some (.copy 0) := by
  decide
theorem witness_IdleStepChangesNothing : State.reset.calls = [] := by decide
theorem witness_RunsExactlyWhenCallerReady :
    CallerReady (demo ref 15) (.copy 10) ∧ ¬ CallerReady (demo ref 14) (.copy 10) :=
  ⟨show (demo ref 15).CopyReady 10 by decide, show ¬ (demo ref 14).CopyReady 10 by decide⟩
/-- The FRAME with its body lying at `b` in the caller's memory. -/
def withBodyAt (b : Nat) : State := { d with body := { d.body with base := b } }
/-- A body built in place, and bodies that share one byte with either end of the FRAME (R63). -/
theorem witness_OverlappingBodyIsRefused :
    (withBodyAt 5).bodyOverlaps (10 : Half).toNat = true ∧ (withBodyAt 19).bodyOverlaps (10 : Half).toNat = true ∧
      State.bodyOverlaps (10 : Half).toNat { d with frame := { d.frame with base := 1009 } } = true ∧
      (withBodyAt 20).bodyOverlaps (10 : Half).toNat = false := by
  decide
theorem witness_SharedFrameIsRefused :
    State.frameShared { d with frameShared := true } = true ∧
      State.BodyReady (10 : Half).toNat { d with frameShared := true } ∧ 0 < (10 : Half).toNat := by
  decide
/-- One byte too few for the header, for the last body byte, and for the code. -/
theorem witness_SmallFrameIsRefused :
    (demo ref 4).frameShared = false ∧ (demo ref 4).frame.size < 5 ∧ (demo ref 4).BodyReady (10 : Half).toNat ∧
      (demo ref 14).frameShared = false ∧ (demo ref 14).frame.size < 5 + (10 : Half).toNat ∧ 0 < (10 : Half).toNat ∧
      (demo ref 14).BodyReady (10 : Half).toNat ∧
      (dispatchLookup (demo ref 14).cfg (variantCode .req) 8 10).fn = .copy ∧
      (demo ref 2).frameShared = false ∧ (demo ref 2).frame.size < 3 := by
  decide
/-- One byte too few, and just enough. -/
theorem witness_ShortBodyIsRefused :
    (d.BodyDisjoint (11 : Half).toNat ∧ d.body.size < (11 : Half).toNat) ∧
      d.BodyDisjoint (10 : Half).toNat ∧ d.body.size = (10 : Half).toNat ∧ d.FrameReady (5 + (10 : Half).toNat) := by
  decide
theorem witness_OperationsWriteOnlyTheirRange :
    (∃ t, exec (.encreq 8 10) d = .next t) ∧ (∃ t, exec (.copy 10) d = .next t) ∧ ∃ t, exec .declt d = .next t :=
  ⟨⟨_, rfl⟩, ⟨_, rfl⟩, ⟨_, rfl⟩⟩
theorem witness_OperationsAreIdempotent :
    (∃ t, exec (.encreq 8 10) d = .next t) ∧ (∃ t, exec (.sethdr 0 5 8) d = .next t) ∧ ∃ t, exec .nop d = .next t :=
  ⟨⟨_, rfl⟩, ⟨_, rfl⟩, ⟨_, rfl⟩⟩
theorem witness_NoOperationDependsOnEarlierOnes :
    (∃ s' : State, s'.cfg = d.cfg ∧ s'.frame = d.frame ∧ s'.frameShared = d.frameShared ∧ s'.body = d.body ∧
      s'.tick ≠ d.tick ∧ ∃ t, exec (.encreq 8 10) d = .next t) ∧
    ofPureUnits (.lt2wc 8) = true ∧ ∃ t, exec (.lt2wc 8) d = .next t :=
  ⟨⟨{ d with r := 3, tick := 7 }, rfl, rfl, rfl, rfl, by decide, _, rfl⟩, rfl, _, rfl⟩
theorem witness_FrameWritesCannotChangeTables :
    ofPureUnits (.disp 0 8 10) = true ∧ (∃ t, exec (.encreq 8 10) d = .next t) ∧ ∃ u, exec (.disp 0 8 10) d = .next u :=
  ⟨rfl, ⟨_, rfl⟩, _, rfl⟩
theorem witness_AddressesFitTheInterfaces :
    ∃ t, exec .declt d = .next t ∧ Access.frameRead 2 ∈ t.bus :=
  ⟨_, rfl, by decide⟩
theorem witness_SubHeaderIsAlwaysZero :
    (∃ t, exec (.hdrwr 0x6064 1) d = .next t) ∧ (writeRange d (.hdrwr 0x6064 1)).1 = 0 ∧
      5 ≤ (writeRange d (.hdrwr 0x6064 1)).2 :=
  ⟨⟨_, rfl⟩, by decide, by decide⟩
theorem witness_StepKeepsGoodStates :
    (d.withFetchWord 56 0x080008000A0000).good = true ∧ ∃ t, step (d.withFetchWord 56 0x080008000A0000) = .next t :=
  ⟨by decide, _, rfl⟩

end Sys2Proof.Tests
end

section
/-!
PROOF of O36 (`30_encoding.md` R92): which selects are reserved, what the decoder makes of them and of the others, and that
no operation answers `ill` = 1.
-/
namespace Sys2Proof.Proofs
open Sys2Proof Sys2Proof.Machine

/-- The comparators behind the output `ill`, read as the ranges of R92. -/
theorem illFlag_iff (sel : Select) :
    illFlag sel = true ↔ sel.toNat = 0x0E ∨ sel.toNat = 0x0F ∨ 0x14 ≤ sel.toNat := by
  simp [illFlag, BitVec.le_def, BitVec.toNat_eq, or_assoc]

/-- The decoder has no row for a select that sets `ill`, whatever the operands are. -/
theorem decodeOp_reserved {sel : Select} (a b c : Half) (hill : illFlag sel = true) :
    decodeOp sel a b c = .error (.reservedSelect sel) := by
  have hsel := (illFlag_iff sel).mp hill
  unfold decodeOp
  split
  case h_19 => rfl
  all_goals omega

/-- The decoder has a row for every other select: one that matches no row is at least 0x14 or lies between the two parts of
the table. -/
theorem decodeOp_operation {sel : Select} (a b c : Half) (hill : illFlag sel = false) :
    ∃ i, decodeOp sel a b c = .ok i := by
  have hsel := mt (illFlag_iff sel).mpr (by simp [hill])
  unfold decodeOp
  split
  case h_19 =>
    simp only [imp_false] at *
    omega
  all_goals exact ⟨_, rfl⟩

/-- A step that takes a call with a reserved select gives R92's answer. -/
theorem step_reserved {s : State} {w : OpWord} {rest : List Call} (hcalls : s.calls = .op w :: rest)
    (hill : illFlag (opField w) = true) :
    step s = .next (State.illegal (opField w) { s with calls := rest }) := by
  simp [step, evaluate, evaluateCall, decode, hcalls, decodeOp_reserved _ _ _ hill]

/-- The answer to a reserved select leaves the parameters, the calls to come, the BODY and the extent of the FRAME alone. -/
theorem illegal_keepsRest (sel : Select) (s : State) : KeepsRest s (s.illegal sel) := by
  simp [KeepsRest]

/-- Every operation ends in `answer` or `answerDp`, and both put 0 on `ill`. -/
theorem exec_ill {i : Instr} {s t : State} (h : exec i s = .next t) : t.ill = false := by
  cases exec_answers h with
  | encode v lt len _ => exact State.encoded_ill v lt len s
  | disp => exact State.answerDp_ill ..
  | _ => exact State.answer_ill ..

/-- Settles O36: a select is reserved exactly where `illFlag` is set (`illFlag_iff`), the decoder rejects exactly those selects
(`decodeOp_reserved`, `decodeOp_operation`), and every operation clears `ill` (`exec_ill`). -/
theorem reservedSelectsAnswerIll : Obligations.ReservedSelectsAnswerIll := by
  unfold Obligations.ReservedSelectsAnswerIll
  constructor
  · intro w s rest hsel hcalls
    have hill := (illFlag_iff (opField w)).mpr hsel
    exact ⟨_, step_reserved hcalls hill, hill, rfl, rfl, fun _ => rfl, illegal_keepsRest _ _⟩
  · intro w hsel
    have hill : illFlag (opField w) = false := by simpa using mt (illFlag_iff (opField w)).mp hsel
    obtain ⟨i, hi⟩ := decodeOp_operation (aField w) (bField w) (cField w) hill
    exact ⟨i, hi, fun _ _ => exec_ill⟩

end Sys2Proof.Proofs
end

section
/-!
PROOF of O1 to O4 (`40_pack_unpack.md` R101 to R104): what the decoder makes of a word put together from its fields, what an
operation without an access completes with, and the fields of a code as numbers.
-/
namespace Sys2Proof.Proofs
open Sys2Proof Sys2Proof.Machine

/-! ### The operands of a word -/

/-- The bits of a word: `c`, `b`, `a` and the select, from the lowest up (R90). -/
theorem opWord_getLsbD (p : Select) (a b c : Half) (i : Nat) :
    (opWord p a b c).getLsbD i = if i < 16 then c.getLsbD i else if i < 32 then b.getLsbD (i - 16)
      else if i < 48 then a.getLsbD (i - 32) else p.getLsbD (i - 48) := by
  have hp := p.getLsbD_of_ge
  have ha := a.getLsbD_of_ge
  have hb := b.getLsbD_of_ge
  have hc := c.getLsbD_of_ge
  simp only [opWord, BitVec.getLsbD_or, BitVec.getLsbD_shiftLeft, BitVec.getLsbD_setWidth]
  grind

theorem aField_opWord (p : Select) (a b c : Half) : aField (opWord p a b c) = a := by
  ext i hi
  simp [aField, opWord_getLsbD, hi, show ¬ 32 + i < 16 by omega, show 32 + i < 48 by omega]

theorem bField_opWord (p : Select) (a b c : Half) : bField (opWord p a b c) = b := by
  ext i hi
  simp [bField, opWord_getLsbD, hi, show 16 + i < 32 by omega]

theorem cField_opWord (p : Select) (a b c : Half) : cField (opWord p a b c) = c := by
  ext i hi
  simp [cField, opWord_getLsbD, hi]

/-- A word put together from a select and three operands decodes by the table's row for the select. -/
theorem decode_opWord (p : Select) (a b c : Half) : decode (.op (opWord p a b c)) = decodeOp p a b c := by
  simp only [decode, Laws.opField_opWord, aField_opWord, bField_opWord, cField_opWord]

/-! ### Operations without an access -/

/-- A result no wider than the port `r` arrives there unchanged (R31). -/
theorem onResultPort_toNat {w : Nat} (x : BitVec w) (hw : w ≤ 17) : (onResultPort x).toNat = x.toNat :=
  BitVec.toNat_setWidth_of_le hw

/-- An operation that only answers `x` completes with `x` and leaves everything else as it was. -/
theorem completesWith_of_answer {i : Instr} {s : State} {x : Count} (h : exec i s = .next (s.start.answer x)) :
    CompletesWith i s x.toNat :=
  ⟨_, h, rfl, rfl, rfl, fun _ => rfl, by simp [KeepsRest]⟩

/-- An operation that answers a value no wider than `r` completes with that value's number. -/
theorem completesWith_of_onResultPort {i : Instr} {s : State} {w n : Nat} {x : BitVec w} (hw : w ≤ 17)
    (hx : x.toNat = n) (h : exec i s = .next (s.start.answer (onResultPort x))) : CompletesWith i s n := by
  have hdone := completesWith_of_answer h
  rwa [onResultPort_toNat x hw, hx] at hdone

/-! ### The fields of a code as numbers -/

theorem variantMask_toNat (v : Half) : (variantMask v).toNat = v.toNat % 4 := by
  simpa [variantMask] using Nat.and_two_pow_sub_one_eq_mod v.toNat 2

theorem entityMask_toNat (e : Half) : (entityMask e).toNat = e.toNat % 8 := by
  simpa [entityMask] using Nat.and_two_pow_sub_one_eq_mod e.toNat 3

theorem offsetMask_toNat (o : Half) : (offsetMask o).toNat = o.toNat % 2048 := by
  simpa [offsetMask] using Nat.and_two_pow_sub_one_eq_mod o.toNat 11

/-- Fields on disjoint bits join to their sum (R101): `x` lies above bit `n`, `y` below it. -/
theorem toNat_shiftLeft_or {w n : Nat} {x y : BitVec w} (hx : x.toNat * 2 ^ n < 2 ^ w) (hy : y.toNat < 2 ^ n) :
    (x <<< n ||| y).toNat = x.toNat * 2 ^ n + y.toNat := by
  rw [BitVec.toNat_or, BitVec.toNat_shiftLeft, Nat.shiftLeft_eq, Nat.mod_eq_of_lt hx, Nat.mul_comm,
    Nat.two_pow_add_eq_or_of_lt hy]

theorem packCode_toNat (v e o : Half) :
    (packCode v e o).toNat = e.toNat % 8 * 8192 + o.toNat % 2048 * 4 + v.toNat % 4 := by
  have hlow : (offsetMask o <<< 2 ||| variantMask v).toNat = o.toNat % 2048 * 4 + v.toNat % 4 := by
    rw [toNat_shiftLeft_or] <;> simp only [offsetMask_toNat, variantMask_toNat] <;> omega
  rw [packCode, BitVec.or_assoc, toNat_shiftLeft_or] <;> simp only [hlow, entityMask_toNat] <;> omega

theorem upVariant_toNat (k : Half) : (upVariant k).toNat = k.toNat % 4 := by
  rw [upVariant, ← variantMask, BitVec.toNat_setWidth, variantMask_toNat, Nat.mod_mod]

theorem upEntity_toNat (k : Half) : (upEntity k).toNat = k.toNat / 8192 := by
  have hk := k.isLt
  rw [upEntity, BitVec.toNat_setWidth, BitVec.toNat_ushiftRight, Nat.shiftRight_eq_div_pow]
  omega

theorem upOffset_toNat (k : Half) : (upOffset k).toNat = k.toNat / 4 % 2048 := by
  rw [upOffset, ← offsetMask, BitVec.toNat_setWidth, offsetMask_toNat, BitVec.toNat_ushiftRight,
    Nat.shiftRight_eq_div_pow, Nat.mod_mod]

/-! ### The operations of U1 -/

/-- Settles O1: the word decodes by row 0x00 (`decode_opWord`), and the code of PACK is the sum of its three fields
(`packCode_toNat`). -/
theorem packMasksAndJoinsFields : Obligations.PackMasksAndJoinsFields := by
  unfold Obligations.PackMasksAndJoinsFields
  intro v e o s
  exact ⟨decode_opWord .., completesWith_of_onResultPort (by decide) (packCode_toNat v e o) rfl⟩

/-- Settles O2: row 0x01 drops `b` and `c` (`decode_opWord`), and the two low bits are the code modulo 4. -/
theorem upvTakesVariant : Obligations.UpvTakesVariant := by
  unfold Obligations.UpvTakesVariant
  intro k b c s
  exact ⟨decode_opWord .., completesWith_of_onResultPort (by decide) (upVariant_toNat k) rfl⟩

/-- Settles O3: a code has 16 bits, so what lies above bit 12 fits the entity field without a mask (`upEntity_toNat`). -/
theorem upeTakesEntity : Obligations.UpeTakesEntity := by
  unfold Obligations.UpeTakesEntity
  intro k b c s
  exact ⟨decode_opWord .., completesWith_of_onResultPort (by decide) (upEntity_toNat k) rfl⟩

/-- Settles O4: the shifted code still holds the entity, which the mask takes away (`upOffset_toNat`). -/
theorem upoTakesOffset : Obligations.UpoTakesOffset := by
  unfold Obligations.UpoTakesOffset
  intro k b c s
  exact ⟨decode_opWord .., completesWith_of_onResultPort (by decide) (upOffset_toNat k) rfl⟩

end Sys2Proof.Proofs
end

section
/-!
PROOF of O6, O7 and O9 (`41_translate.md` R112, R116, R118): the two translations as numbers, band by band, and the types
that come back.
-/
namespace Sys2Proof.Proofs
open Sys2Proof Sys2Proof.Machine

/-! ### The band table -/

theorem find?_cons_eq_ite {α : Type} (p : α → Bool) (a : α) (l : List α) :
    (a :: l).find? p = if p a then some a else l.find? p := by
  rw [List.find?_cons]
  cases p a <;> rfl

/-- The comparators F2 to F6, in the order of BAND_ROM (R111). -/
theorem bandOfType_eq (k : Config) (lt : Half) :
    bandOfType k lt =
      if 8 ≤ lt.toNat then some ⟨8, 0x19, k.eStaSta⟩ else if 7 ≤ lt.toNat then some ⟨7, 0x12, k.eStaSta⟩
      else if 6 ≤ lt.toNat then some ⟨6, 0x10, k.eStaSta⟩ else if 5 ≤ lt.toNat then some ⟨5, 0x0E, k.eStaSta⟩
      else if 4 ≤ lt.toNat then some ⟨4, 0x08, k.eStaSta⟩ else none := by
  simp [bandOfType, bandRom, find?_cons_eq_ite, BitVec.le_def]

/-- The comparators I2 to I6, in the order of BAND_ROM (R111). -/
theorem bandOfOffset_eq (k : Config) (o : BitVec 11) :
    bandOfOffset k o =
      if 0x19 ≤ o.toNat then some ⟨8, 0x19, k.eStaSta⟩ else if 0x12 ≤ o.toNat then some ⟨7, 0x12, k.eStaSta⟩
      else if 0x10 ≤ o.toNat then some ⟨6, 0x10, k.eStaSta⟩ else if 0x0E ≤ o.toNat then some ⟨5, 0x0E, k.eStaSta⟩
      else if 0x08 ≤ o.toNat then some ⟨4, 0x08, k.eStaSta⟩ else none := by
  simp [bandOfOffset, bandRom, find?_cons_eq_ite, BitVec.le_def]

/-- Within a band the forward rule moves a defined type from the anchor to the origin, and nothing wraps. -/
theorem band_offset_toNat {anchor : BitVec 5} {origin : BitVec 11} {lt : Half} (hlow : anchor.toNat ≤ lt.toNat)
    (hhigh : lt.toNat ≤ 16) :
    (origin.setWidth 16 + (lt - anchor.setWidth 16)).toNat = origin.toNat + (lt.toNat - anchor.toNat) := by
  have := anchor.isLt
  have := origin.isLt
  bv_omega

/-- Within a band the inverse rule moves an offset from the origin to the anchor, and nothing wraps. -/
theorem band_type_toNat {anchor : BitVec 5} {origin o : BitVec 11} (hlow : origin.toNat ≤ o.toNat) :
    (anchor.setWidth 16 + (o - origin).setWidth 16).toNat = anchor.toNat + (o.toNat - origin.toNat) := by
  have := anchor.isLt
  have := o.isLt
  bv_omega

/-! ### The forward translation -/

/-- A wire code is the sum of its two fields: its variant bits are 0 (R71). -/
theorem wireCode_toNat (e : BitVec 3) {o : Half} (ho : o.toNat < 2048) :
    (wireCode (e.setWidth 16) o).toNat = e.toNat * 8192 + o.toNat * 4 := by
  have he : (e.setWidth 16).toNat = e.toNat := BitVec.toNat_setWidth_of_le (by decide)
  have hlow : (o <<< 2).toNat = o.toNat * 4 := by
    rw [BitVec.toNat_shiftLeft, Nat.shiftLeft_eq]
    omega
  rw [wireCode, toNat_shiftLeft_or (by omega) (by omega), hlow, he]
  rfl

theorem lt2wcCode_sentinel (k : Config) {lt : Half} (h : 17 ≤ lt.toNat) : lt2wcCode k lt = 0 :=
  if_pos h

theorem lt2wcCode_discoverList (k : Config) : lt2wcCode k 0 = wireCode (k.eStaCco.setWidth 16) 5 := rfl

/-- Every defined type but DISCOVER_LIST goes to E_STA_STA, at the offset of its band. -/
theorem lt2wcCode_staSta (k : Config) {lt : Half} (hne : lt ≠ 0) (hlt : lt.toNat ≤ 16) :
    ∃ o : Half, lt2wcCode k lt = wireCode (k.eStaSta.setWidth 16) o ∧ o.toNat = offsetNumber lt.toNat := by
  have hF0 : ¬ ordinal .ltMax ≤ lt := Nat.not_le.mpr (Nat.lt_succ_of_le hlt)
  have hF1 : ¬ lt = ordinal .discoverList := hne
  rw [lt2wcCode, if_neg hF0, if_neg hF1, bandOfType_eq, offsetNumber]
  split_ifs with h8 h7 h6 h5 h4
  · exact ⟨_, rfl, band_offset_toNat h8 hlt⟩
  · exact ⟨_, rfl, band_offset_toNat h7 hlt⟩
  · exact ⟨_, rfl, band_offset_toNat h6 hlt⟩
  · exact ⟨_, rfl, band_offset_toNat h5 hlt⟩
  · exact ⟨_, rfl, band_offset_toNat h4 hlt⟩
  · exact ⟨lt, rfl, rfl⟩

theorem offsetNumber_lt {lt : Nat} (hlt : lt ≤ 16) : offsetNumber lt < 2048 := by
  unfold offsetNumber
  split_ifs <;> omega

/-- The forward translation is the forward rule (R112). -/
theorem lt2wcCode_toNat (k : Config) (lt : Half) : (lt2wcCode k lt).toNat = wireNumber k lt.toNat := by
  unfold wireNumber
  split_ifs with h17 h0
  · rw [lt2wcCode_sentinel k h17]
    rfl
  · obtain rfl : lt = 0 := BitVec.eq_of_toNat_eq h0
    rw [lt2wcCode_discoverList, wireCode_toNat _ (by decide)]
    rfl
  · have hdefined : lt.toNat ≤ 16 := by omega
    obtain ⟨o, hcode, ho⟩ := lt2wcCode_staSta k (fun h => h0 (congrArg BitVec.toNat h)) hdefined
    rw [hcode, wireCode_toNat _ (ho ▸ offsetNumber_lt hdefined), ho]

/-! ### The inverse translation -/

/-- The inverse translation is the inverse rule (R116). -/
theorem wc2ltType_toNat (k : Config) (code : Half) : (wc2ltType k code).toNat = typeNumber k code.toNat := by
  have hDiscover : discoverListOffset.toNat = 0x05 := rfl
  simp only [wc2ltType, typeNumber, bandNumber, ← upEntity_toNat, ← upOffset_toNat, bandOfOffset_eq, BitVec.toNat_eq,
    hDiscover]
  split_ifs with hI0 hI1 h2 h3 h4 h5 h6
  · rfl
  · exact band_type_toNat h2
  · exact band_type_toNat h3
  · exact band_type_toNat h4
  · exact band_type_toNat h5
  · exact band_type_toNat h6
  · exact BitVec.toNat_setWidth_of_le (by decide)
  · rfl

/-! ### Both translations -/

theorem four_dvd_wireNumber (k : Config) (lt : Nat) : 4 ∣ wireNumber k lt := by
  unfold wireNumber
  split_ifs <;> omega

/-- The variant fills the two bits that the forward rule leaves 0 (R113). -/
theorem mkCode_toNat (k : Config) (v lt : Half) : (mkCode k v lt).toNat = wireNumber k lt.toNat + v.toNat % 4 := by
  obtain ⟨q, hq⟩ := four_dvd_wireNumber k lt.toNat
  rw [mkCode, BitVec.toNat_or, lt2wcCode_toNat, variantMask_toNat, hq]
  exact (Nat.two_pow_add_eq_or_of_lt (i := 2) (Nat.mod_lt _ (by decide)) q).symm

/-- No type has the offset of DISCOVER_LIST, which I0 tests before the bands: a round trip needs no distinct entity codes. -/
theorem offsetNumber_ne_five (lt : Nat) : offsetNumber lt ≠ 5 := by
  unfold offsetNumber
  split_ifs <;> omega

/-- The band test sends the offset of each defined type back to it, type by type as R118 checks it. -/
theorem bandNumber_offsetNumber {lt : Nat} (hlt : lt ≤ 16) : bandNumber (offsetNumber lt) = lt := by
  interval_cases lt <;> rfl

/-- The inverse rule undoes the forward rule on the defined types, whatever stands in the variant bits (R118). -/
theorem typeNumber_wireNumber_add (k : Config) {lt v : Nat} (hlt : lt ≤ 16) (hv : v < 4) :
    typeNumber k (wireNumber k lt + v) = lt := by
  have hF0 : ¬ 17 ≤ lt := by omega
  by_cases h0 : lt = 0
  · have hwire : wireNumber k lt = k.eStaCco.toNat * 8192 + 5 * 4 := by rw [wireNumber, if_neg hF0, if_pos h0]
    rw [typeNumber, if_pos (by omega), h0]
  · have hwire : wireNumber k lt = k.eStaSta.toNat * 8192 + offsetNumber lt * 4 := by
      rw [wireNumber, if_neg hF0, if_neg h0]
    have hfit := offsetNumber_lt hlt
    have hentity : (wireNumber k lt + v) / 8192 = k.eStaSta.toNat := by omega
    have hoffset : (wireNumber k lt + v) / 4 % 2048 = offsetNumber lt := by omega
    rw [typeNumber, hentity, hoffset, if_neg fun h => offsetNumber_ne_five lt h.2, if_pos rfl,
      bandNumber_offsetNumber hlt]

/-! ### The operations of U2 -/

/-- Settles O6: row 0x04 takes `a` alone (`decode_opWord`), and the code of LT2WC is the forward rule's (`lt2wcCode_toNat`). -/
theorem lt2wcFollowsForwardRule : Obligations.Lt2wcFollowsForwardRule := by
  unfold Obligations.Lt2wcFollowsForwardRule
  intro lt b c s
  exact ⟨decode_opWord .., completesWith_of_onResultPort (by decide) (lt2wcCode_toNat s.cfg lt) rfl⟩

/-- Settles O7: row 0x05 takes `a` alone (`decode_opWord`), and the type of WC2LT is the inverse rule's (`wc2ltType_toNat`). -/
theorem wc2ltFollowsInverseRule : Obligations.Wc2ltFollowsInverseRule := by
  unfold Obligations.Wc2ltFollowsInverseRule
  intro k b c s
  exact ⟨decode_opWord .., completesWith_of_onResultPort (by decide) (wc2ltType_toNat s.cfg k) rfl⟩

/-- Settles O9: as numbers, the two translations are the two rules (`mkCode_toNat`, `wc2ltType_toNat`), and the inverse rule
undoes the forward rule (`typeNumber_wireNumber_add`). -/
theorem forwardThenInverseIsIdentity : Obligations.ForwardThenInverseIsIdentity := by
  unfold Obligations.ForwardThenInverseIsIdentity
  intro k lt v hlt
  apply BitVec.eq_of_toNat_eq
  rw [wc2ltType_toNat, mkCode_toNat, typeNumber_wireNumber_add k hlt (Nat.mod_lt _ (by decide))]

end Sys2Proof.Proofs
end

section
/-!
PROOF of O16 (`42_dispatch.md` R134, R136): the scan of the table as a first match, what a hit and a miss make of the
dispatch unit's outputs, and what a legal table adds.
-/
namespace Sys2Proof.Proofs
open Sys2Proof Sys2Proof.Machine

/-! ### The scan of the table -/

/-- The comparator pair is equality of the unmasked numbers: zero extension keeps an entry's fields as they are. -/
theorem entryMatches_iff (v lt : Half) (e : DispRecord) : entryMatches v lt e = true ↔ EntryAnswers v lt e := by
  have hvariant := BitVec.toNat_setWidth_of_le (b := e.variant) (by decide : 2 ≤ 16)
  have htype := BitVec.toNat_setWidth_of_le (b := e.lt) (by decide : 5 ≤ 16)
  simp only [entryMatches, Bool.and_eq_true, beq_iff_eq, BitVec.toNat_eq, hvariant, htype]

/-- The scan stops at an entry exactly when that entry answers and none before it does. -/
theorem firstMatch_eq_some_iff {rom : List DispRecord} {v lt : Half} {e : DispRecord} :
    firstMatch rom v lt = some e ↔
      EntryAnswers v lt e ∧ ∃ pre post, rom = pre ++ e :: post ∧ ∀ d ∈ pre, ¬ EntryAnswers v lt d := by
  simp only [firstMatch, List.find?_eq_some_iff_append, Bool.not_eq_true', ← Bool.not_eq_true, entryMatches_iff]

theorem dpHitFlag_iff {rom : List DispRecord} {v lt : Half} :
    dpHitFlag rom v lt = true ↔ ∃ e ∈ rom, EntryAnswers v lt e := by
  simp only [dpHitFlag, firstMatch, List.find?_isSome, entryMatches_iff]

/-! ### The outputs of the dispatch unit -/

theorem dispatchLookup_hit_iff {k : Config} {v lt len : Half} :
    (dispatchLookup k v lt len).hit = true ↔ ∃ e ∈ k.dispatchRom, EntryAnswers v lt e :=
  dpHitFlag_iff

/-- The multiplexer selects the function kind of the entry at which the scan stops. -/
theorem dispatchLookup_fn_of_firstMatch {k : Config} {v lt : Half} (len : Half) {e : DispRecord}
    (h : firstMatch k.dispatchRom v lt = some e) : (dispatchLookup k v lt len).fn = e.fn := by
  simp only [dispatchLookup, h]

/-- The multiplexer selects FN_NOP when the scan stops nowhere (R131). -/
theorem dispatchLookup_fn_of_miss {k : Config} {v lt len : Half} (h : (dispatchLookup k v lt len).hit = false) :
    (dispatchLookup k v lt len).fn = .nop := by
  have hnone : firstMatch k.dispatchRom v lt = none := Option.isNone_iff_eq_none.mp (Option.isSome_eq_false_iff.mp h)
  simp only [dispatchLookup, hnone]

theorem dispatchLookup_n_toNat (k : Config) (v lt len : Half) :
    (dispatchLookup k v lt len).n.toNat = if (dispatchLookup k v lt len).fn = .copy then len.toNat else 0 := by
  rw [dispatchLookup_n]
  split <;> rfl

/-- 17 bits hold the total of the largest count, so nothing wraps (R136). -/
theorem dispatchLookup_total_toNat (k : Config) (v lt len : Half) :
    (dispatchLookup k v lt len).total.toNat = 5 + (dispatchLookup k v lt len).n.toNat := by
  have hn := (dispatchLookup k v lt len).n.isLt
  have htotal : (dispatchLookup k v lt len).total = 5 + (dispatchLookup k v lt len).n.setWidth 17 := rfl
  rw [htotal]
  bv_omega

/-- A variant above 3 does not fit an entry's 2 bits, and the comparison does not mask it. -/
theorem dispatchLookup_miss_of_variant (k : Config) {v : Half} (lt len : Half) (hv : 4 ≤ v.toNat) :
    (dispatchLookup k v lt len).hit = false := by
  rw [← Bool.not_eq_true, dispatchLookup_hit_iff]
  rintro ⟨e, -, hvariant, -⟩
  have := e.variant.isLt
  omega

/-! ### Legal tables -/

/-- What R133 (b), (c) and (d) say of one entry. -/
theorem legal_entry {k : Config} (hk : k.legal = true) {e : DispRecord} (he : e ∈ k.dispatchRom) :
    e.lt.toNat ≠ 13 ∧ e.fn = .copy ∧ e.lt.toNat ≤ 16 := by
  simp only [Config.legal, Config.romWellFormed, Config.romLacksValidate, Config.romAllCopy, Config.romInEnumeration,
    Bool.and_eq_true, List.all_eq_true] at hk
  obtain ⟨-, ⟨⟨⟨-, hvalidate⟩, hcopy⟩, hrange⟩, -⟩ := hk
  have h13 := hvalidate e he
  have h16 := hrange e he
  simp only [bne_iff_ne, ne_eq, BitVec.toNat_eq] at h13
  exact ⟨h13, beq_iff_eq.mp (hcopy e he), of_decide_eq_true h16⟩

/-- Under a legal table a hit selects FN_COPY, since every entry holds it, and a miss does not. -/
theorem dispatchLookup_hit_iff_copy {k : Config} (hk : k.legal = true) (v lt len : Half) :
    (dispatchLookup k v lt len).hit = true ↔ (dispatchLookup k v lt len).fn = .copy := by
  constructor
  · intro hhit
    obtain ⟨e, he⟩ := Option.isSome_iff_exists.mp hhit
    obtain ⟨-, hcopy, -⟩ := legal_entry hk (List.mem_of_find?_eq_some he)
    rw [dispatchLookup_fn_of_firstMatch len he, hcopy]
  · intro hcopy
    by_contra hmiss
    have hnop := dispatchLookup_fn_of_miss (Bool.not_eq_true _ ▸ hmiss)
    exact absurd (hcopy.symm.trans hnop) (by decide)

/-- Under a legal table VALIDATE and the types out of range miss. -/
theorem dispatchLookup_miss_of_type {k : Config} (hk : k.legal = true) (v : Half) {lt : Half} (len : Half)
    (hlt : lt.toNat = 13 ∨ 17 ≤ lt.toNat) : (dispatchLookup k v lt len).hit = false := by
  rw [← Bool.not_eq_true, dispatchLookup_hit_iff]
  rintro ⟨e, he, -, htype⟩
  obtain ⟨h13, -, h16⟩ := legal_entry hk he
  omega

/-! ### DISP -/

/-- Settles O16: DISP answers with the dispatch unit's outputs and touches nothing else; the scan is a first match
(`firstMatch_eq_some_iff`), a miss selects FN_NOP (`dispatchLookup_fn_of_miss`), and the total does not wrap
(`dispatchLookup_total_toNat`). -/
theorem dispAnswersFirstExactMatch : Obligations.DispAnswersFirstExactMatch := by
  unfold Obligations.DispAnswersFirstExactMatch
  intro v lt len s
  have hfirst : ∀ pre e post, s.cfg.dispatchRom = pre ++ e :: post → (∀ d ∈ pre, ¬ EntryAnswers v lt d) →
      EntryAnswers v lt e → (dispatchLookup s.cfg v lt len).fn = e.fn := fun pre e post hrom hpre he =>
    dispatchLookup_fn_of_firstMatch len (firstMatch_eq_some_iff.mpr ⟨he, pre, post, hrom, hpre⟩)
  refine ⟨decode_opWord .., s.start.answerDp (dispatchLookup s.cfg v lt len), rfl, dispatchLookup_hit_iff, hfirst,
    dispatchLookup_fn_of_miss, dispatchLookup_n_toNat .., dispatchLookup_total_toNat .., rfl, rfl, rfl, fun _ => rfl,
    by simp [KeepsRest], dispatchLookup_miss_of_variant _ _ _,
    fun hk => ⟨dispatchLookup_hit_iff_copy hk _ _ _, ?_, ?_⟩⟩
  · exact fun hlt => dispatchLookup_miss_of_type hk v len (.inr hlt)
  · rintro rfl
    exact dispatchLookup_miss_of_type hk v len (.inl rfl)

end Sys2Proof.Proofs
end

section
/-!
PROOF of O20 to O22 (`43_frame_ops.md` R146, R148, R150, R151): the version gate as numbers, the five bytes the header
writer leaves, and the code of each SETHDR_CODE_MODE.
-/
namespace Sys2Proof.Proofs
open Sys2Proof Sys2Proof.Machine

/-! ### The version gate -/

/-- The gate compares the unmasked numbers: zero extension keeps an entity code as it is (R146). -/
theorem versionFor_toNat (k : Config) (e : Half) : (versionFor k e).toNat = versionNumber k e.toNat := by
  have hvendor := BitVec.toNat_setWidth_of_le (b := k.eVendor) (by decide : 3 ≤ 16)
  have hmanufacture := BitVec.toNat_setWidth_of_le (b := k.eManufacture) (by decide : 3 ≤ 16)
  simp only [versionFor, versionNumber, BitVec.toNat_eq, hvendor, hmanufacture]
  split <;> rfl

/-- PROTO_VERSION is not 0 (R7 (c)), so the version is 0 for the two gated entities only (R146 (c)). -/
theorem versionNumber_eq_zero_iff {k : Config} (hk : k.legal = true) (e : Nat) :
    versionNumber k e = 0 ↔ e = k.eVendor.toNat ∨ e = k.eManufacture.toNat := by
  simp only [Config.legal, Config.versionNotZero, Bool.and_eq_true, bne_iff_ne, ne_eq, BitVec.toNat_eq] at hk
  obtain ⟨⟨-, hversion⟩, -⟩ := hk
  unfold versionNumber
  split
  case isTrue hgated => exact iff_of_true rfl hgated
  case isFalse hungated => exact iff_of_false hversion hungated

/-- Settles O20: row 0x07 takes `a` alone (`decode_opWord`), the gate compares all of it (`versionFor_toNat`), and a legal
PROTO_VERSION tells the two answers apart (`versionNumber_eq_zero_iff`). -/
theorem verselGatesOnEntity : Obligations.VerselGatesOnEntity := by
  unfold Obligations.VerselGatesOnEntity
  intro e b c s
  exact ⟨decode_opWord .., completesWith_of_onResultPort (by decide) (versionFor_toNat s.cfg e) rfl,
    fun hk => versionNumber_eq_zero_iff hk _⟩

/-! ### The two bytes of a code -/

theorem join_bytes_toNat (high low : Byte) :
    (high.setWidth 16 <<< 8 ||| low.setWidth 16).toNat = 256 * high.toNat + low.toNat := by
  have hhigh : (high.setWidth 16).toNat = high.toNat := BitVec.toNat_setWidth_of_le (by decide)
  have hlow : (low.setWidth 16).toNat = low.toNat := BitVec.toNat_setWidth_of_le (by decide)
  rw [toNat_shiftLeft_or] <;> omega

theorem lowByte_toNat (x : Half) : (lowByte x).toNat = x.toNat % 256 :=
  BitVec.toNat_setWidth 8 x

theorem highByte_toNat (x : Half) : (highByte x).toNat = x.toNat / 256 := by
  have hx := x.isLt
  rw [highByte, BitVec.toNat_setWidth, BitVec.toNat_ushiftRight, Nat.shiftRight_eq_div_pow]
  omega

theorem join_highByte_lowByte (code : Half) : (highByte code).setWidth 16 <<< 8 ||| (lowByte code).setWidth 16 = code := by
  apply BitVec.eq_of_toNat_eq
  rw [join_bytes_toNat, highByte_toNat, lowByte_toNat]
  omega

/-- Written and read in one byte order, a code comes back (R12). -/
theorem codeOf_codeBytes (o : ByteOrder) (code : Half) :
    ∃ b0 b1, codeBytes o code = [b0, b1] ∧ codeOf o b0 b1 = code := by
  cases o
  case le => exact ⟨_, _, rfl, join_highByte_lowByte code⟩
  case be => exact ⟨_, _, rfl, join_highByte_lowByte code⟩

/-- The code that stands in the FRAME, as a word and as a number (R12). -/
theorem codeOf_stored_toNat (s : State) :
    (codeOf s.cfg.byteOrder (s.frame.read 1) (s.frame.read 2)).toNat = storedCode s := by
  unfold storedCode
  cases s.cfg.byteOrder
  case le => exact (join_bytes_toNat _ _).trans (Nat.add_comm _ _)
  case be => exact join_bytes_toNat _ _

/-! ### The header writer -/

/-- A state whose first five FRAME bytes are those of the header writer holds its header, in its own byte order. -/
theorem holdsHeader_of_read {s t : State} {code : Half} {version : Byte} (hcfg : t.cfg = s.cfg)
    (hread : ∀ a < 5, t.frame.read a = (s.headed code version).frame.read a) :
    HoldsHeader t version.toNat code.toNat := by
  obtain ⟨b0, b1, hbytes, hcode⟩ := codeOf_codeBytes s.cfg.byteOrder code
  have hheader : headerBytes s.cfg code version = [version, b0, b1, 0, 0] := by simp [headerBytes, hbytes]
  have hbyte : ∀ a (ha : a < 5), t.frame.read a = [version, b0, b1, 0, 0][a] := by
    intro a ha
    rw [hread a ha, State.headed_byte (h := by simpa [hheader] using ha)]
    simp only [hheader]
  have hstored : storedCode t = code.toNat := by
    rw [← codeOf_stored_toNat, hcfg, hbyte 1 (by decide), hbyte 2 (by decide)]
    exact congrArg BitVec.toNat hcode
  exact ⟨congrArg BitVec.toNat (hbyte 0 (by decide)), hstored, hbyte 3 (by decide), hbyte 4 (by decide)⟩

/-- An operation that runs the header writer and answers `r` leaves the header, makes its five writes and touches nothing
else. -/
theorem completes_with_header {i : Instr} {s : State} {code : Half} {version : Byte} {r : Count}
    (h : exec i s = .next ((s.start.headed code version).answer r)) :
    ∃ t, exec i s = .next t ∧ HoldsHeader t version.toNat code.toNat ∧ FrameKeptOutside 0 5 s t ∧
      t.bus = headerAccesses s.cfg code version ∧ t.r = r ∧ t.ill = false ∧ KeepsRest s t := by
  have hkept : FrameKeptOutside 0 5 s ((s.start.headed code version).answer r) := fun a ha =>
    State.headed_outside code version s.start (by omega)
  exact ⟨_, h, holdsHeader_of_read (s := s.start) rfl fun _ _ => rfl, hkept, State.headed_bus code version s.start, rfl,
    rfl, State.headed_keepsRest code version s.start⟩

/-- Settles O21: row 0x0D takes `a` and `b` (`decode_opWord`), and HDRWR is the header writer with the low byte of `b` as the
version (`completes_with_header`). -/
theorem hdrwrWritesFiveBytes : Obligations.HdrwrWritesFiveBytes := by
  unfold Obligations.HdrwrWritesFiveBytes
  intro code b c s hframe
  have hdone := completes_with_header (i := .hdrwr code b) (execHdrwr_ready hframe)
  rw [lowByte_toNat] at hdone
  exact ⟨decode_opWord .., hdone⟩

/-! ### SETHDR -/

/-- The code of each mode as a number. In mode B the derived offset stands where the forward rule has it, above two zero
bits (R150). -/
theorem setHdrCode_toNat (k : Config) (v e lt : Half) :
    (setHdrCode k v e lt).toNat = setHdrNumber k v.toNat e.toNat lt.toNat := by
  unfold setHdrCode setHdrNumber
  cases k.setHdrMode
  case modeA => exact mkCode_toNat k v lt
  case modeB =>
    have hoffset : ((lt2off k lt).setWidth 16).toNat = wireNumber k lt.toNat / 4 % 2048 := by
      rw [BitVec.toNat_setWidth_of_le (by decide), lt2off, upOffset_toNat, lt2wcCode_toNat]
    have hfour := four_dvd_wireNumber k lt.toNat
    simp only [packCode_toNat, hoffset]
    omega
  case modeC => exact packCode_toNat v e lt

/-- Settles O22: row 0x0C takes all three operands (`decode_opWord`), and SETHDR is the header writer with the gated version
(`versionFor_toNat`) and the code of the mode (`setHdrCode_toNat`). -/
theorem sethdrWritesHeaderByMode : Obligations.SethdrWritesHeaderByMode := by
  unfold Obligations.SethdrWritesHeaderByMode
  intro v e lt s hframe
  have hdone := completes_with_header (i := .sethdr v e lt) (execSethdr_ready hframe)
  simp only [← versionFor_toNat, ← setHdrCode_toNat, BitVec.ofNat_toNat, BitVec.setWidth_eq]
  exact ⟨decode_opWord .., hdone⟩

end Sys2Proof.Proofs
end

section
/-!
PROOF of O23 (`43_frame_ops.md` R153 to R157): the code and the version an encode operation writes, as numbers, what stands in
the FRAME after it on a hit and on a miss, and what a legal parameter setting adds.
-/
namespace Sys2Proof.Proofs
open Sys2Proof Sys2Proof.Machine

/-! ### What is written, as numbers -/

/-- The codes of the four message roles fit the 2 bits of the variant field (R34). -/
theorem variantCode_lt (v : Variant) : (variantCode v).toNat < 4 := by
  cases v <;> decide

theorem encodedCode_toNat (v : Variant) (lt : Half) (k : Config) :
    (encodedCode v lt k).toNat = wireNumber k lt.toNat + (variantCode v).toNat := by
  rw [encodedCode, mkCode_toNat, Nat.mod_eq_of_lt (variantCode_lt v)]

/-- The version is gated on the entity field of the code that is written (R153). -/
theorem encodedVersion_toNat (v : Variant) (lt : Half) (k : Config) :
    (encodedVersion v lt k).toNat = versionNumber k ((encodedCode v lt k).toNat / 8192) := by
  rw [encodedVersion, versionFor_toNat, BitVec.toNat_setWidth_of_le (by decide), upEntity_toNat]

/-- The selects of the encode operations follow the variant codes, from 0x08 up (R90, R154 to R157). -/
theorem decode_encode_select (v : Variant) (lt len c : Half) :
    decode (.op (opWord (0x08 + (variantCode v).setWidth 5) lt len c)) = .ok (encodeInstr v lt len) := by
  rw [decode_opWord]
  cases v <;> rfl

/-! ### The FRAME after an encode operation -/

/-- COPY starts above the header, so the header stands as the header writer left it, hit or miss. -/
theorem encoded_holdsHeader (v : Variant) (lt len : Half) (s : State) :
    HoldsHeader (s.encoded v lt len) (encodedVersion v lt s.cfg).toNat (encodedCode v lt s.cfg).toNat := by
  obtain ⟨hcfg, -⟩ := State.encoded_keepsRest v lt len s
  refine holdsHeader_of_read (s := s.start) hcfg fun a ha => ?_
  rw [State.encoded_read, if_neg (by omega)]

/-- From address 5 on, a hit copies the body and leaves what lies above it (R153). -/
theorem encoded_body_of_copy {v : Variant} {lt len : Half} {s : State}
    (hfn : (dispatchLookup s.cfg (variantCode v) lt len).fn = .copy) :
    (∀ i < len.toNat, (s.encoded v lt len).frame.read (5 + i) = s.body.read i) ∧
      FrameKeptOutside 0 (5 + len.toNat) s (s.encoded v lt len) := by
  constructor
  · intro i hi
    rw [State.encoded_read, if_pos ⟨hfn, by omega, by omega⟩, Nat.add_sub_cancel_left]
  · intro a ha
    rw [State.encoded_read, if_neg (by omega), State.headed_outside _ _ _ (by omega), State.start_frame]

/-- From address 5 on, a miss leaves everything (R153 (c)). -/
theorem encoded_kept_of_nop {v : Variant} {lt len : Half} {s : State}
    (hfn : (dispatchLookup s.cfg (variantCode v) lt len).fn = .nop) :
    FrameKeptOutside 0 5 s (s.encoded v lt len) := by
  intro a ha
  rw [State.encoded_read, if_neg (by simp [hfn]), State.headed_outside _ _ _ (by omega), State.start_frame]

/-! ### The count -/

theorem dispatchLookup_total_of_copy {k : Config} {v lt len : Half} (hfn : (dispatchLookup k v lt len).fn = .copy) :
    (dispatchLookup k v lt len).total.toNat = 5 + len.toNat := by
  rw [dispatchLookup_total_toNat, dispatchLookup_n_toNat, if_pos hfn]

theorem dispatchLookup_total_of_nop {k : Config} {v lt len : Half} (hfn : (dispatchLookup k v lt len).fn = .nop) :
    (dispatchLookup k v lt len).total = 5 := by
  apply BitVec.eq_of_toNat_eq
  rw [dispatchLookup_total_toNat, dispatchLookup_n_toNat, if_neg (by simp [hfn])]
  rfl

/-! ### Legal parameters -/

/-- The two entities the forward rule derives are not gated (R7 (a)). -/
theorem versionNumber_of_derived {k : Config} (hk : k.legal = true) {e : Nat}
    (he : e = k.eStaCco.toNat ∨ e = k.eStaSta.toNat) : versionNumber k e = k.protoVersion.toNat := by
  simp only [Config.legal, Config.entityCodesDistinct, Bool.and_eq_true, decide_eq_true_eq, List.nodup_cons,
    List.mem_cons, List.not_mem_nil, or_false, not_or, BitVec.toNat_eq] at hk
  exact if_neg (by omega)

/-- The entity field of a defined type's code is E_STA_CCO or E_STA_STA (R153 (a)). -/
theorem entity_of_wireNumber_add (k : Config) {lt v : Nat} (hlt : lt ≤ 16) (hv : v < 4) :
    (wireNumber k lt + v) / 8192 = k.eStaCco.toNat ∨ (wireNumber k lt + v) / 8192 = k.eStaSta.toNat := by
  have hoffset := offsetNumber_lt hlt
  unfold wireNumber
  split_ifs with h17 h0
  · omega
  · left
    omega
  · right
    omega

/-- Settles O23: an encode operation ends in `State.encoded` (`encodeFrame_ready`), whose header is that of the derived code and
version (`encoded_holdsHeader`), whose body is copied or left by the function kind (`encoded_body_of_copy`,
`encoded_kept_of_nop`), and whose answer is the dispatch unit's total. -/
theorem encodeWritesHeaderAndBody : Obligations.EncodeWritesHeaderAndBody := by
  unfold Obligations.EncodeWritesHeaderAndBody
  intro v lt len c s hready
  have hrun : exec (encodeInstr v lt len) s = .next (s.encoded v lt len) := by
    rw [exec_encodeInstr, encodeFrame_ready hready]
    rfl
  refine ⟨decode_encode_select v lt len c, s.encoded v lt len, hrun, ?header, ?bus, ?hit, ?miss, rfl,
    State.encoded_keepsRest v lt len s, fun hk => ⟨?version, ?sentinel⟩⟩
  case header =>
    rw [← encodedCode_toNat, ← encodedVersion_toNat]
    exact encoded_holdsHeader v lt len s
  case bus =>
    simp only [← encodedCode_toNat, ← encodedVersion_toNat, BitVec.ofNat_toNat, BitVec.setWidth_eq]
    exact State.encoded_bus v lt len s
  case hit => exact fun hfn => ⟨dispatchLookup_total_of_copy hfn, encoded_body_of_copy hfn⟩
  case miss => exact fun hfn => ⟨dispatchLookup_total_of_nop hfn, encoded_kept_of_nop hfn⟩
  case version => exact fun hlt => versionNumber_of_derived hk (entity_of_wireNumber_add _ hlt (variantCode_lt v))
  case sentinel =>
    intro hlt
    have hwire : wireNumber s.cfg lt.toNat = 0 := if_pos hlt
    exact ⟨by rw [hwire, Nat.zero_add], dispatchLookup_fn_of_miss (dispatchLookup_miss_of_type hk _ _ (.inr hlt))⟩

end Sys2Proof.Proofs
end

section
/-!
PROOF of O25 and O26 (`43_frame_ops.md` R160 to R164): a decode operation reads the stored code and answers a function of it.
-/
namespace Sys2Proof.Proofs
open Sys2Proof Sys2Proof.Machine

/-- A decode operation whose answer is no wider than `r` completes with that answer's number for the stored code: two reads
and no write (R160). -/
theorem completesReadingCode_of_decodeFrame {i : Instr} {s : State} {w n : Nat} {g : Config → Half → BitVec w}
    (hframe : s.FrameReady 3) (hw : w ≤ 17) (hexec : exec i s = conclude (decodeFrame (fun k c => onResultPort (g k c)) s))
    (hg : ∀ code : Half, code.toNat = storedCode s → (g s.cfg code).toNat = n) : CompletesReadingCode i s n := by
  rw [decodeFrame_ready _ hframe] at hexec
  have hanswer := (onResultPort_toNat _ hw).trans (hg _ (codeOf_stored_toNat s))
  exact ⟨_, hexec, hanswer, rfl, rfl, fun _ => rfl, by simp [KeepsRest]⟩

/-- Settles O25: row 0x10 has no operand (`decode_opWord`), and DECLT answers the inverse translation of the stored code
(`wc2ltType_toNat`). -/
theorem decltReadsLogicalType : Obligations.DecltReadsLogicalType := by
  unfold Obligations.DecltReadsLogicalType
  intro a b c s hframe
  exact ⟨decode_opWord .., completesReadingCode_of_decodeFrame hframe (by decide) rfl fun code hcode => by
    rw [wc2ltType_toNat, hcode]⟩

/-- Settles O26: rows 0x11 to 0x13 have no operand (`decode_opWord`), and each operation answers one field of the stored code
(`upVariant_toNat`, `upEntity_toNat`, `upOffset_toNat`). -/
theorem decodeReadsRawFields : Obligations.DecodeReadsRawFields := by
  unfold Obligations.DecodeReadsRawFields
  intro a b c s hframe
  refine ⟨decode_opWord .., ?variant, decode_opWord .., ?entity, decode_opWord .., ?offset⟩
  case variant =>
    exact completesReadingCode_of_decodeFrame hframe (by decide) rfl fun code hcode => by rw [upVariant_toNat, hcode]
  case entity =>
    exact completesReadingCode_of_decodeFrame hframe (by decide) rfl fun code hcode => by rw [upEntity_toNat, hcode]
  case offset =>
    exact completesReadingCode_of_decodeFrame hframe (by decide) rfl fun code hcode => by rw [upOffset_toNat, hcode]

end Sys2Proof.Proofs
end

section
/-!
PROOF of O33, O34 and O35 (`30_encoding.md` R90, R91): the encoder and the decoder undo each other, and a word is its four
fields.
-/
namespace Sys2Proof.Proofs
open Sys2Proof Sys2Proof.Machine

/-- Settles O33: an operation in format OP is encoded as a word put together from its row's select and its operands, which the
decoder takes apart again (`decode_opWord`); format FN has its two rows. -/
theorem decodeOfEncodeIsIdentity : Obligations.DecodeOfEncodeIsIdentity := by
  unfold Obligations.DecodeOfEncodeIsIdentity
  intro i
  cases i with
  | copy n => rfl
  | nop => rfl
  | _ => exact decode_opWord ..

/-- The four fields cover the word: each of the 53 bits lies in one of them. -/
theorem opWord_fields (w : OpWord) : opWord (opField w) (aField w) (bField w) (cField w) = w := by
  ext i hi
  rw [← BitVec.getLsbD_eq_getElem, ← BitVec.getLsbD_eq_getElem, opWord_getLsbD]
  simp only [opField, aField, bField, cField, BitVec.getLsbD_extractLsb']
  split_ifs with hc hb ha
  · simp [hc]
  · simp [show i - 16 < 16 by omega, show 16 + (i - 16) = i by omega]
  · simp [show i - 32 < 16 by omega, show 32 + (i - 32) = i by omega]
  · simp [show i - 48 < 5 by omega, show 48 + (i - 48) = i by omega]

/-- Each row of the table is encoded with its own select: the encoder's word for a decoded operation has the select that was
decoded, whatever became of the operands it ignores. -/
theorem encode_of_decodeOp {p : Select} {a b c : Half} {i : Instr} (h : decodeOp p a b c = .ok i) :
    ∃ a' b' c', encode i = .op (opWord p a' b' c') := by
  have hselect : ∀ {n : Nat} (hn : n < 2 ^ 5), p.toNat = n → p = BitVec.ofNatLT n hn :=
    fun _ hp => BitVec.eq_of_toNat_eq (hp.trans (BitVec.toNat_ofNatLT ..).symm)
  unfold decodeOp at h
  split at h
  case h_19 => cases h
  all_goals
    rename_i hp
    cases h
    obtain rfl := hselect (by decide) hp
    exact ⟨_, _, _, rfl⟩

/-- Settles O34: the fields cover the word (`opWord_fields`) and are read back from it; the select of a decoded operation is the
one its encoding has (`encode_of_decodeOp`). -/
theorem wordsAreTheirFields : Obligations.WordsAreTheirFields := by
  unfold Obligations.WordsAreTheirFields
  refine ⟨opWord_fields, fun p a b c => ⟨Laws.opField_opWord .., aField_opWord .., bField_opWord .., cField_opWord ..⟩, ?_⟩
  intro w w' i hw hw'
  obtain ⟨a, b, c, hcode⟩ := encode_of_decodeOp hw
  obtain ⟨a', b', c', hcode'⟩ := encode_of_decodeOp hw'
  have hwords : opWord (opField w) a b c = opWord (opField w') a' b' c' := Call.op.inj (hcode.symm.trans hcode')
  simpa only [Laws.opField_opWord] using congrArg opField hwords

/-- Settles O35: the words are closed data, and the decoder computes. -/
theorem writtenOutWordsDecode : Obligations.WrittenOutWordsDecode := by
  unfold Obligations.WrittenOutWordsDecode
  decide

end Sys2Proof.Proofs
end

section
/-!
PROOF of O32, O37, O38, O44 and O48 to O51 (`00_scope.md` R7, `10_state.md` R30, R39, `20_memory.md` R54, R61): what a step does
with a call, what every operation leaves alone, which accesses it makes, and the good states.
-/
namespace Sys2Proof.Proofs
open Sys2Proof Sys2Proof.Machine

/-! ### Steps -/

theorem step_call {c : Call} {rest : List Call} {i : Instr} {s : State} (hcalls : s.calls = c :: rest)
    (hdecode : decode c = .ok i) : step s = exec i { s with calls := rest } := by
  simp only [step, evaluate, hcalls, evaluateCall, hdecode]

theorem step_idle {s : State} (hcalls : s.calls = []) : step s = .next s.idle := by
  simp only [step, evaluate, hcalls]

/-- Everything a step can answer: nothing was driven, a reserved select was, or an operation ran. -/
theorem step_cases {s t : State} (h : step s = .next t) :
    t = s.idle ∨ ∃ rest, (∃ sel, t = State.illegal sel { s with calls := rest }) ∨
      ∃ i, exec i { s with calls := rest } = .next t := by
  cases hcalls : s.calls with
  | nil =>
    rw [step_idle hcalls] at h
    cases h
    exact .inl rfl
  | cons c rest =>
    refine .inr ⟨rest, ?_⟩
    cases hdecode : decode c with
    | ok i => exact .inr ⟨i, step_call hcalls hdecode ▸ h⟩
    | error e =>
      obtain ⟨sel⟩ := e
      simp only [step, evaluate, hcalls, evaluateCall, hdecode] at h
      cases h
      exact .inl ⟨sel, rfl⟩

/-- Settles O37: the next call is taken and decoded (`step_call`), and `withFetchWord` puts a table row's call first. -/
theorem stepRunsDecodedOperation : Obligations.StepRunsDecodedOperation := by
  unfold Obligations.StepRunsDecodedOperation
  refine ⟨fun c rest i s => step_call, fun nbits w i s hrow => ?_⟩
  have hdecode : decode (callOfBits nbits w) = .ok i := by
    cases hd : decode (callOfBits nbits w) with
    | ok j => simpa [decodeTableWord, hd, Except.toOption] using hrow
    | error e => simp [decodeTableWord, hd, Except.toOption] at hrow
  exact step_call (State.withFetchWord_calls s nbits w) hdecode

/-- Settles O38: `State.idle` drives the outputs alone. -/
theorem idleStepChangesNothing : Obligations.IdleStepChangesNothing := by
  unfold Obligations.IdleStepChangesNothing
  intro s hcalls
  exact ⟨s.idle, step_idle hcalls, rfl, fun _ => rfl, by simp [KeepsRest]⟩

/-! ### What every operation leaves alone -/

theorem writeRange_encodeInstr (s : State) (v : Variant) (lt len : Half) :
    writeRange s (encodeInstr v lt len) = (0, (dispatchLookup s.cfg (variantCode v) lt len).total.toNat) := by
  cases v <;> rfl

/-- The decode operations write nothing (R160). -/
theorem writeRange_decode {i : Instr} (s : State) (hi : i ∈ [Instr.declt, .decvar, .decent, .decoff]) :
    writeRange s i = (0, 0) := by
  simp only [List.mem_cons, List.not_mem_nil, or_false] at hi
  obtain rfl | rfl | rfl | rfl := hi <;> rfl

/-- Every operation leaves everything but the FRAME's contents and the outputs alone (R61). -/
theorem exec_keepsRest {i : Instr} {s t : State} (h : exec i s = .next t) : KeepsRest s t := by
  cases exec_answers h with
  | encode v lt len _ => exact State.encoded_keepsRest v lt len s
  | _ => simp [KeepsRest]

/-- The total that an encode operation answers is where its writes end (R54). -/
theorem encoded_keptOutside (v : Variant) (lt len : Half) (s : State) :
    FrameKeptOutside 0 (dispatchLookup s.cfg (variantCode v) lt len).total.toNat s (s.encoded v lt len) := by
  rcases fn_copy_or_nop (dispatchLookup s.cfg (variantCode v) lt len).fn with hfn | hfn
  · rw [dispatchLookup_total_of_copy hfn]
    exact (encoded_body_of_copy hfn).2
  · rw [dispatchLookup_total_of_nop hfn]
    exact encoded_kept_of_nop hfn

theorem headed_keptOutside (code : Half) (version : Byte) (r : Count) (s : State) :
    FrameKeptOutside 0 5 s ((s.start.headed code version).answer r) := by
  intro a ha
  rw [State.answer_frame, State.headed_outside _ _ _ (by omega), State.start_frame]

/-- No operation changes a FRAME byte outside its range (R54). -/
theorem exec_keptOutside {i : Instr} {s t : State} (h : exec i s = .next t) :
    FrameKeptOutside (writeRange s i).1 (writeRange s i).2 s t := by
  cases exec_answers h with
  | encode v lt len _ =>
    rw [writeRange_encodeInstr]
    exact encoded_keptOutside v lt len s
  | sethdr v e lt _ => exact headed_keptOutside _ _ _ s
  | hdrwr code b _ => exact headed_keptOutside _ _ _ s
  | copy n _ =>
    intro a ha
    have houtside : ¬ (5 ≤ a ∧ a < 5 + n.toNat) := by
      simp only [writeRange] at ha
      omega
    rw [State.answer_frame, State.copied_read, if_neg houtside, State.start_frame]
  | _ => exact fun _ _ => rfl

/-- Settles O44: by what each operation answers (`exec_keptOutside`, `exec_keepsRest`). -/
theorem operationsWriteOnlyTheirRange : Obligations.OperationsWriteOnlyTheirRange := by
  unfold Obligations.OperationsWriteOnlyTheirRange
  exact fun i s t h => ⟨exec_keptOutside h, exec_keepsRest h⟩

/-- A state whose FRAME the header writer left has zeros in the sub-header. -/
theorem headed_subHeader (code : Half) (version : Byte) (s : State) :
    (s.headed code version).frame.read 3 = 0 ∧ (s.headed code version).frame.read 4 = 0 := by
  obtain ⟨-, -, h3, h4⟩ := holdsHeader_of_read (State.headed_cfg code version s) (fun _ _ => rfl)
  exact ⟨h3, h4⟩

/-- Settles O49: the operations whose range starts at 0 and holds five bytes are those that run the header writer. -/
theorem subHeaderIsAlwaysZero : Obligations.SubHeaderIsAlwaysZero := by
  unfold Obligations.SubHeaderIsAlwaysZero
  intro i s t h hlow hhigh
  cases exec_answers h with
  | pure i r hrange _ => simp [hrange] at hhigh
  | disp => simp [writeRange] at hhigh
  | encode v lt len _ =>
    obtain ⟨-, -, h3, h4⟩ := encoded_holdsHeader v lt len s
    exact ⟨h3, h4⟩
  | sethdr =>
    rw [State.answer_frame]
    exact headed_subHeader ..
  | hdrwr =>
    rw [State.answer_frame]
    exact headed_subHeader ..
  | decode i r hi _ => simp [writeRange_decode s hi] at hhigh
  | copy => simp [writeRange] at hlow

/-! ### Accesses -/

/-- The header writer's seven byte writes in order, under either byte order (R148, R213). -/
theorem headerAccesses_eq (k : Config) (code : Half) (version : Byte) :
    ∃ b1 b2, headerAccesses k code version = [.frameWrite 0 version, .frameWrite 1 b1, .frameWrite 2 b2,
      .frameWrite 3 0, .frameWrite 4 0, .frameWrite 3 0, .frameWrite 4 0] := by
  unfold headerAccesses
  cases k.byteOrder
  case le => exact ⟨_, _, rfl⟩
  case be => exact ⟨_, _, rfl⟩

/-- The header writer accesses the first five bytes only. -/
theorem mem_headerAccesses {k : Config} {code : Half} {version : Byte} {x : Access}
    (h : x ∈ headerAccesses k code version) : ∃ a < 5, ∃ b, x = .frameWrite a b := by
  obtain ⟨b1, b2, hwrites⟩ := headerAccesses_eq k code version
  simp only [hwrites, List.mem_cons, List.not_mem_nil, or_false] at h
  obtain rfl | rfl | rfl | rfl | rfl | rfl | rfl := h <;> exact ⟨_, by decide, _, rfl⟩

/-- COPY accesses the body's bytes and their places in the FRAME. -/
theorem mem_copyAccesses {s : State} {n : Nat} {x : Access} (h : x ∈ copyAccesses s n) :
    ∃ i < n, x = .bodyRead i ∨ x = .frameWrite (5 + i) (s.body.read i) := by
  simpa [copyAccesses] using h

/-- An access lies inside its space and its address fits its port. -/
abbrev SoundAccess (s : State) (x : Access) : Prop :=
  x.inside s = true ∧ x.fitsPorts = true

theorem soundAccess_header {s : State} {k : Config} {code : Half} {version : Byte} {x : Access} (hs : 5 ≤ s.frame.size)
    (h : x ∈ headerAccesses k code version) : SoundAccess s x := by
  obtain ⟨a, ha, b, rfl⟩ := mem_headerAccesses h
  exact ⟨decide_eq_true (by omega), decide_eq_true (by omega)⟩

/-- The addresses of COPY fit the ports because its count has 16 bits (R50). -/
theorem soundAccess_copy {s s' : State} {n : Half} {x : Access} (hbody : n.toNat ≤ s.body.size)
    (hframe : n.toNat = 0 ∨ 5 + n.toNat ≤ s.frame.size) (h : x ∈ copyAccesses s' n.toNat) : SoundAccess s x := by
  have hn := n.isLt
  obtain ⟨i, hi, rfl | rfl⟩ := mem_copyAccesses h <;>
    exact ⟨decide_eq_true (by omega), decide_eq_true (by omega)⟩

/-- Every access of an operation that answers lies inside its space and fits its port. -/
theorem exec_soundAccess {i : Instr} {s t : State} (h : exec i s = .next t) : ∀ x ∈ t.bus, SoundAccess s x := by
  intro x hx
  cases exec_answers h with
  | encode v lt len hready =>
    obtain ⟨⟨-, hbody⟩, ⟨-, hheader⟩, hcopy⟩ := hready
    rw [State.encoded_bus, List.mem_append] at hx
    rcases hx with hx | hx
    · exact soundAccess_header hheader hx
    · split at hx
      · rename_i hfn
        exact soundAccess_copy hbody (.inr (hcopy hfn).2) hx
      · cases hx
  | sethdr v e lt hready =>
    rw [State.answer_bus, State.headed_bus] at hx
    exact soundAccess_header hready.2 hx
  | hdrwr code b hready =>
    rw [State.answer_bus, State.headed_bus] at hx
    exact soundAccess_header hready.2 hx
  | decode i r _ hready =>
    have hsize := hready.2
    simp only [State.answer_bus, State.noted_bus, State.start_bus, List.nil_append, List.cons_append, List.mem_cons,
      List.not_mem_nil, or_false] at hx
    obtain rfl | rfl := hx <;> exact ⟨decide_eq_true (by omega), rfl⟩
  | copy n hready =>
    obtain ⟨⟨-, hbody⟩, hframe⟩ := hready
    rw [State.answer_bus, State.copied_bus] at hx
    exact soundAccess_copy hbody (hframe.imp_right And.right) hx
  | _ => cases hx

/-- Settles O48: one half of `exec_soundAccess`. -/
theorem addressesFitTheInterfaces : Obligations.AddressesFitTheInterfaces := by
  unfold Obligations.AddressesFitTheInterfaces
  exact fun i s t h x hx => (exec_soundAccess h x hx).2

/-! ### Good states -/

theorem good_iff (s : State) :
    s.good = true ↔ s.cfg.legal = true ∧ s.frame.wf = true ∧ s.body.wf = true ∧ ∀ x ∈ s.bus, x.inside s = true := by
  simp only [State.good, Bool.and_eq_true, List.all_eq_true, and_assoc]

/-- Whether an access lies inside its space depends on the two sizes alone. -/
theorem inside_congr {s t : State} (hframe : t.frame.size = s.frame.size) (hbody : t.body.size = s.body.size)
    (x : Access) : x.inside t = x.inside s := by
  cases x <;> simp only [Access.inside, hframe, hbody]

/-- Every operation keeps the canonical form of the FRAME. -/
theorem exec_frame_wf {i : Instr} {s t : State} (h : exec i s = .next t) (hwf : s.frame.wf = true) :
    t.frame.wf = true := by
  cases exec_answers h with
  | encode v lt len hready => exact State.encoded_wf hready hwf
  | sethdr v e lt hready =>
    rw [State.answer_frame]
    exact State.headed_wf _ _ hready.2 hwf
  | hdrwr code b hready =>
    rw [State.answer_frame]
    exact State.headed_wf _ _ hready.2 hwf
  | copy n hready =>
    rw [State.answer_frame]
    exact State.copied_wf _ (hready.2.imp_right And.right) hwf
  | _ => exact hwf

/-- Every operation leads from a good state to a good state. -/
theorem exec_good {i : Instr} {s t : State} (h : exec i s = .next t) (hs : s.good = true) : t.good = true := by
  obtain ⟨hlegal, hframe, hbody, -⟩ := (good_iff s).mp hs
  obtain ⟨hcfg, -, -, hsameBody, -, hsize, -⟩ := exec_keepsRest h
  refine (good_iff t).mpr ⟨hcfg ▸ hlegal, exec_frame_wf h hframe, hsameBody ▸ hbody, fun x hx => ?_⟩
  rw [inside_congr hsize (congrArg Space.size hsameBody)]
  exact (exec_soundAccess h x hx).1

/-- A state without accesses is good where its parameters and spaces are those of a good state. -/
theorem good_of_no_access {s t : State} (hs : s.good = true) (hcfg : t.cfg = s.cfg) (hframe : t.frame = s.frame)
    (hbody : t.body = s.body) (hbus : t.bus = []) : t.good = true := by
  obtain ⟨hlegal, hwf, hbodyWf, -⟩ := (good_iff s).mp hs
  exact (good_iff t).mpr ⟨hcfg ▸ hlegal, hframe ▸ hwf, hbody ▸ hbodyWf, by simp [hbus]⟩

/-- Taking a call leaves a good state good: the check does not look at the calls to come. -/
theorem good_calls (s : State) (calls : List Call) : State.good { s with calls := calls } = s.good := by
  have hinside : Access.inside { s with calls := calls } = Access.inside s := funext (inside_congr rfl rfl)
  simp only [State.good, hinside]

/-- Settles O50: a step drives nothing, meets a reserved select, or runs an operation (`step_cases`); the first two make no
access (`good_of_no_access`), and an operation keeps every part of the check (`exec_good`). -/
theorem stepKeepsGoodStates : Obligations.StepKeepsGoodStates := by
  unfold Obligations.StepKeepsGoodStates
  intro s t hs h
  obtain rfl | ⟨rest, ⟨sel, rfl⟩ | ⟨i, hexec⟩⟩ := step_cases h
  · exact good_of_no_access hs rfl rfl rfl rfl
  · exact good_of_no_access hs rfl rfl rfl rfl
  · exact exec_good hexec ((good_calls s rest).trans hs)

/-! ### Reset -/

/-- Settles O32: reset takes the reference parameters and lists nothing. -/
theorem resetLeavesDefaults : Obligations.ResetLeavesDefaults := by
  unfold Obligations.ResetLeavesDefaults
  exact ⟨rfl, rfl, rfl, rfl, rfl, rfl, rfl, rfl, rfl, rfl, rfl, rfl⟩

/-- The reference parameters are legal in each mode of SETHDR, which no rule of R7 looks at. -/
theorem referenceConfig_legal (m : SetHdrMode) : (referenceConfig m).legal = true := rfl

/-- Settles O51: the reference parameters are legal, nothing is listed, and no access was made. -/
theorem resetIsGood : Obligations.ResetIsGood :=
  (good_iff State.reset).mpr ⟨referenceConfig_legal _, rfl, rfl, fun _ hx => nomatch hx⟩

end Sys2Proof.Proofs
end

section
/-!
PROOF of O45 to O47 (`00_scope.md` R13, `20_memory.md` R54, R61): what an operation answers depends on the parameters, FRAME and
BODY alone, and running it again changes nothing.
-/
namespace Sys2Proof.Proofs
open Sys2Proof Sys2Proof.Machine

/-! ### What an operation depends on -/

/-- Two states give an operation the same inputs: the parameters, the FRAME and who uses it, and the BODY. -/
structure SameInputs (s s' : State) : Prop where
  cfg : s'.cfg = s.cfg
  frame : s'.frame = s.frame
  frameShared : s'.frameShared = s.frameShared
  body : s'.body = s.body

/-- What the rest of the state is cannot be seen: states with the same inputs differ in the calls to come, the output ports, the
access record and the count of evaluations alone. -/
theorem SameInputs.eq_update {s s' : State} (h : SameInputs s s') :
    s' = { s with calls := s'.calls, r := s'.r, ill := s'.ill, dp := s'.dp, bus := s'.bus, tick := s'.tick } := by
  obtain ⟨hcfg, hframe, hshared, hbody⟩ := h
  cases s
  cases s'
  simp_all

/-- Two states show the same on the ports `r` and `ill`, in the access record and in the FRAME. -/
structure SameAnswer (t t' : State) : Prop where
  r : t'.r = t.r
  ill : t'.ill = t.ill
  bus : t'.bus = t.bus
  frame : t'.frame = t.frame

/-- All four decode operations are the frame reader with a function of their own. -/
theorem exec_decode {i : Instr} (hi : i ∈ [Instr.declt, .decvar, .decent, .decoff]) :
    ∃ f, ∀ s, exec i s = conclude (decodeFrame f s) := by
  simp only [List.mem_cons, List.not_mem_nil, or_false] at hi
  obtain rfl | rfl | rfl | rfl := hi <;> exact ⟨_, fun _ => rfl⟩

theorem exec_encode_ready {v : Variant} {lt len : Half} {s : State} (h : s.EncodeReady v lt len) :
    exec (encodeInstr v lt len) s = .next (s.encoded v lt len) := by
  rw [exec_encodeInstr, encodeFrame_ready h]
  rfl

/-- The result of an encode operation, its accesses and the FRAME come from the inputs. -/
theorem encoded_sameAnswer {s s' : State} (h : SameInputs s s') (v : Variant) (lt len : Half) :
    SameAnswer (s.encoded v lt len) (s'.encoded v lt len) := by
  have hframe : (s'.encoded v lt len).frame = (s.encoded v lt len).frame := by
    rw [h.eq_update]
    unfold State.encoded
    dsimp only
    split <;> rfl
  have hbus : (s'.encoded v lt len).bus = (s.encoded v lt len).bus := by
    simp only [State.encoded_bus, copyAccesses, h.cfg, h.body]
  exact ⟨by simp only [State.encoded_r, h.cfg], rfl, hbus, hframe⟩

/-- An operation that answers in one state answers the same in every state with the same inputs. -/
theorem exec_congr {i : Instr} {s s' t : State} (h : SameInputs s s') (hexec : exec i s = .next t) :
    ∃ t', exec i s' = .next t' ∧ SameAnswer t t' := by
  cases exec_answers hexec with
  | pure i r _ hpure => exact ⟨_, hpure s' h.cfg, rfl, rfl, rfl, h.frame⟩
  | disp v lt len => exact ⟨_, rfl, congrArg (fun k => (dispatchLookup k v lt len).total) h.cfg, rfl, rfl, h.frame⟩
  | encode v lt len hready =>
    have hready' : s'.EncodeReady v lt len := by
      rw [h.eq_update]
      exact hready
    exact ⟨_, exec_encode_ready hready', encoded_sameAnswer h v lt len⟩
  | sethdr v e lt hready =>
    rw [h.eq_update]
    exact ⟨_, execSethdr_ready hready, rfl, rfl, rfl, rfl⟩
  | hdrwr code b hready =>
    rw [h.eq_update]
    exact ⟨_, execHdrwr_ready hready, rfl, rfl, rfl, rfl⟩
  | decode i r hi hready =>
    obtain ⟨f, hf⟩ := exec_decode hi
    rw [hf, decodeFrame_ready f hready] at hexec
    have hr := congrArg State.r (Host.Outcome.next.inj hexec)
    have hready' : s'.FrameReady 3 := by rwa [State.FrameReady, h.frameShared, h.frame]
    rw [hf, decodeFrame_ready f hready', h.cfg, h.frame]
    exact ⟨_, rfl, hr, rfl, rfl, h.frame⟩
  | copy n hready =>
    rw [h.eq_update]
    exact ⟨_, execCopy_ready hready, rfl, rfl, rfl, rfl⟩

/-- The result of an operation of U1, U2 or U3 depends on the parameters alone (R13). -/
theorem pureUnit_result {i : Instr} {s s' t : State} (hi : ofPureUnits i = true) (hcfg : s'.cfg = s.cfg)
    (hexec : exec i s = .next t) : ∃ t', exec i s' = .next t' ∧ t'.r = t.r := by
  cases exec_answers hexec with
  | pure i r _ hpure => exact ⟨_, hpure s' hcfg, rfl⟩
  | disp v lt len => exact ⟨_, rfl, congrArg (fun k => (dispatchLookup k v lt len).total) hcfg⟩
  | encode v lt len _ => cases v <;> cases hi
  | decode i r hmem _ =>
    simp only [List.mem_cons, List.not_mem_nil, or_false] at hmem
    obtain rfl | rfl | rfl | rfl := hmem <;> cases hi
  | _ => cases hi

/-- Settles O46: an operation sees its inputs alone (`exec_congr`), and one of U1, U2 or U3 the parameters alone
(`pureUnit_result`). -/
theorem noOperationDependsOnEarlierOnes : Obligations.NoOperationDependsOnEarlierOnes := by
  unfold Obligations.NoOperationDependsOnEarlierOnes
  refine ⟨fun i s s' t hcfg hframe hshared hbody hexec => ?_, fun i s s' t => pureUnit_result⟩
  obtain ⟨t', hexec', hr, hill, hbus, hsame⟩ := exec_congr ⟨hcfg, hframe, hshared, hbody⟩ hexec
  exact ⟨t', hexec', hr, hill, hbus, hsame⟩

/-- Settles O47: no operation writes the parameters (`exec_keepsRest`), and the tables are functions of them. -/
theorem frameWritesCannotChangeTables : Obligations.FrameWritesCannotChangeTables := by
  unfold Obligations.FrameWritesCannotChangeTables
  intro i j s t u hi hother hexec
  obtain ⟨hcfg, -⟩ := exec_keepsRest hother
  exact ⟨congrArg bandRom hcfg, congrArg Config.dispatchRom hcfg, pureUnit_result hi hcfg hexec⟩

/-! ### Running an operation again -/

/-- A body that was there is still there after an operation. -/
theorem bodyReady_of_keepsRest {n : Nat} {s t : State} (h : KeepsRest s t) (hready : s.BodyReady n) : t.BodyReady n := by
  obtain ⟨-, -, -, hbody, hbase, hsize, -⟩ := h
  simpa only [State.BodyReady, State.BodyDisjoint, State.bodyOverlaps, hbody, hbase, hsize] using hready

/-- A FRAME with room for `n` bytes still has it after an operation. -/
theorem frameReady_of_keepsRest {n : Nat} {s t : State} (h : KeepsRest s t) (hready : s.FrameReady n) :
    t.FrameReady n := by
  obtain ⟨-, -, hshared, -, -, hsize, -⟩ := h
  simpa only [State.FrameReady, hshared, hsize] using hready

theorem encodeReady_of_keepsRest {v : Variant} {lt len : Half} {s t : State} (h : KeepsRest s t)
    (hready : s.EncodeReady v lt len) : t.EncodeReady v lt len := by
  obtain ⟨hbody, hheader, hcopy⟩ := hready
  exact ⟨bodyReady_of_keepsRest h hbody, frameReady_of_keepsRest h hheader, fun hfn =>
    frameReady_of_keepsRest h (hcopy (h.1 ▸ hfn))⟩

theorem copyReady_of_keepsRest {n : Nat} {s t : State} (h : KeepsRest s t) (hready : s.CopyReady n) : t.CopyReady n :=
  ⟨bodyReady_of_keepsRest h hready.1, hready.2.imp_right (frameReady_of_keepsRest h)⟩

theorem headerBytes_length (k : Config) (code : Half) (version : Byte) : (headerBytes k code version).length = 5 := by
  simp [headerBytes, codeBytes_length]

/-- The header writer changes nothing where its bytes already stand. -/
theorem headed_again {s t : State} {code : Half} {version : Byte} (hcfg : t.cfg = s.cfg)
    (hread : ∀ a < 5, t.frame.read a = (s.headed code version).frame.read a) (a : Nat) :
    (t.headed code version).frame.read a = t.frame.read a := by
  by_cases ha : a < 5
  · have hbyte : ∀ k, a < (headerBytes k code version).length := fun k => (headerBytes_length k code version).symm ▸ ha
    rw [hread a ha, State.headed_byte _ _ _ (hbyte _), State.headed_byte _ _ _ (hbyte _)]
    simp only [hcfg]
  · exact State.headed_outside _ _ _ (by omega)

/-- What it is to be run again without a difference: the operation completes with the same result, accesses and FRAME. -/
abbrev RunsAgain (i : Instr) (t : State) : Prop :=
  ∃ u, exec i t = .next u ∧ u.r = t.r ∧ u.ill = t.ill ∧ u.bus = t.bus ∧ FrameKept t u

/-- An operation that runs the header writer on operands and parameters alone and answers `r` runs again. -/
theorem runsAgain_of_header {i : Instr} {s t : State} {code : Half} {version : Byte} {r : Count}
    (hrun : ∀ u : State, u.cfg = s.cfg → u.FrameReady 5 → exec i u = .next ((u.start.headed code version).answer r))
    (hready : s.FrameReady 5) (hexec : exec i s = .next t) : RunsAgain i t := by
  have hrest := exec_keepsRest hexec
  have hcfg : t.cfg = s.cfg := hrest.1
  have ht := Host.Outcome.next.inj (hexec.symm.trans (hrun s rfl hready))
  have hr : t.r = r := by rw [ht, State.answer_r]
  have hill : t.ill = false := exec_ill hexec
  have hframe : t.frame = (s.start.headed code version).frame := by rw [ht, State.answer_frame]
  have hbus : t.bus = headerAccesses s.cfg code version := by
    rw [ht, State.answer_bus, State.headed_bus, State.start_bus, State.start_cfg, List.nil_append]
  refine ⟨_, hrun t hcfg (frameReady_of_keepsRest hrest hready), hr.symm, hill.symm, ?accesses,
    fun a => ?frame⟩
  case accesses => rw [State.answer_bus, State.headed_bus, State.start_bus, State.start_cfg, List.nil_append, hbus, hcfg]
  case frame =>
    rw [State.answer_frame]
    exact headed_again (s := s.start) (t := t.start) hcfg (fun b _ => congrArg (Space.read · b) hframe) a

/-- An encode operation changes nothing where it ran before: header and body are what it would write. -/
theorem encoded_again (v : Variant) (lt len : Half) (s : State) :
    FrameKept (s.encoded v lt len) ((s.encoded v lt len).encoded v lt len) := by
  obtain ⟨hcfg, -, -, hbody, -⟩ := State.encoded_keepsRest v lt len s
  intro a
  rw [State.encoded_read, hcfg, hbody]
  split
  · rename_i hcopied
    rw [State.encoded_read, if_pos hcopied]
  · refine headed_again (s := s.start) (t := (s.encoded v lt len).start) hcfg (fun b hb => ?_) a
    rw [State.start_frame, State.encoded_read, if_neg (by omega)]

/-- COPY changes nothing where it ran before. -/
theorem copied_again {s t : State} {n : Nat} (hframe : t.frame = (s.copied 0 n).frame) (hbody : t.body = s.body)
    (a : Nat) : (t.copied 0 n).frame.read a = t.frame.read a := by
  rw [State.copied_read, hbody, hframe, State.copied_read]
  split <;> rfl

/-- Settles O45: an operation that leaves the FRAME as it was sees the same inputs again (`exec_congr`); the others find the
bytes they write in place (`encoded_again`, `headed_again`, `copied_again`). -/
theorem operationsAreIdempotent : Obligations.OperationsAreIdempotent := by
  unfold Obligations.OperationsAreIdempotent
  intro i s t hexec
  have hunchanged : t.frame = s.frame → RunsAgain i t := by
    intro hframe
    obtain ⟨hcfg, -, hshared, hbody, -⟩ := exec_keepsRest hexec
    obtain ⟨u, hu, hr, hill, hbus, hsame⟩ := exec_congr ⟨hcfg, hframe, hshared, hbody⟩ hexec
    exact ⟨u, hu, hr, hill, hbus, fun _ => by rw [hsame]⟩
  cases exec_answers hexec with
  | encode v lt len hready =>
    have hrest := State.encoded_keepsRest v lt len s
    have ⟨hcfg, _, _, hbody, _⟩ := hrest
    refine ⟨_, exec_encode_ready (encodeReady_of_keepsRest hrest hready), ?_, rfl, ?_, encoded_again v lt len s⟩
    · simp only [State.encoded_r, hcfg]
    · simp only [State.encoded_bus, copyAccesses, hcfg, hbody]
  | sethdr v e lt hready =>
    exact runsAgain_of_header (fun u hu hr => hu ▸ execSethdr_ready hr) hready hexec
  | hdrwr code b hready => exact runsAgain_of_header (fun u _ hr => execHdrwr_ready hr) hready hexec
  | copy n hready =>
    have hready' := copyReady_of_keepsRest (exec_keepsRest hexec) hready
    exact ⟨_, execCopy_ready hready', rfl, rfl, rfl, copied_again (s := s.start) rfl rfl⟩
  | _ => exact hunchanged rfl

end Sys2Proof.Proofs
end

section
/-!
PROOF of O39 to O43 (`60_exceptions.md` R185, `20_memory.md` R56, R58, R63): where each operation is refused, and by which name.
-/
namespace Sys2Proof.Proofs
open Sys2Proof Sys2Proof.Machine

/-! ### Refusals -/

/-- The reason a FRAME access is refused for: a second agent before an address outside. -/
abbrev frameReason (s : State) : Refusal :=
  if s.frameShared then .frameShared else .outsideFrame

theorem exec_encode_refused {v : Variant} {lt len : Half} {s : State} (h : ¬ s.EncodeReady v lt len) :
    exec (encodeInstr v lt len) s = .refused (s.refusal len.toNat) := by
  rw [exec_encodeInstr, encodeFrame_refused h]
  rfl

theorem exec_decode_ready {i : Instr} {s : State} (hi : i ∈ [Instr.declt, .decvar, .decent, .decoff])
    (h : s.FrameReady 3) : ∃ t, exec i s = .next t := by
  obtain ⟨f, hf⟩ := exec_decode hi
  rw [hf, decodeFrame_ready f h]
  exact ⟨_, rfl⟩

theorem exec_decode_refused {i : Instr} {s : State} (hi : i ∈ [Instr.declt, .decvar, .decent, .decoff])
    (h : ¬ s.FrameReady 3) : exec i s = .refused (frameReason s) := by
  obtain ⟨f, hf⟩ := exec_decode hi
  rw [hf, decodeFrame_refused f h]
  rfl

/-- The reasons of R185. -/
abbrev NamedReason (e : Refusal) : Prop :=
  e = .outsideFrame ∨ e = .bodyTooShort ∨ e = .bodyOverlapsFrame ∨ e = .frameShared

theorem frameReason_named (s : State) : NamedReason (frameReason s) := by
  unfold frameReason
  split <;> simp [NamedReason]

/-- An operation answers under `P`, and is refused by one of the names of R185 elsewhere. -/
abbrev RunsExactlyWhen (P : Prop) (i : Instr) (s : State) : Prop :=
  (P → ∃ t, exec i s = .next t) ∧ (¬ P → ∃ e, exec i s = .refused e ∧ NamedReason e)

theorem runsExactlyWhen_encode (v : Variant) (lt len : Half) (s : State) :
    RunsExactlyWhen (s.EncodeReady v lt len) (encodeInstr v lt len) s :=
  ⟨fun h => ⟨_, exec_encode_ready h⟩, fun h => ⟨_, exec_encode_refused h, State.refusal_cases _ s⟩⟩

theorem runsExactlyWhen_decode {i : Instr} (s : State) (hi : i ∈ [Instr.declt, .decvar, .decent, .decoff]) :
    RunsExactlyWhen (s.FrameReady 3) i s :=
  ⟨exec_decode_ready hi, fun h => ⟨_, exec_decode_refused hi h, frameReason_named s⟩⟩

/-- An operation without an access needs nothing of the caller. -/
theorem runsExactlyWhen_true {i : Instr} {s t : State} (h : exec i s = .next t) : RunsExactlyWhen True i s :=
  ⟨fun _ => ⟨t, h⟩, fun hno => absurd trivial hno⟩

/-- Settles O39: operation by operation, what `CallerReady` asks for is where its unit answers; elsewhere the unit refuses by
name. -/
theorem runsExactlyWhenCallerReady : Obligations.RunsExactlyWhenCallerReady := by
  unfold Obligations.RunsExactlyWhenCallerReady
  intro i s
  cases i with
  | encreq lt len => exact runsExactlyWhen_encode .req lt len s
  | enccnf lt len => exact runsExactlyWhen_encode .cnf lt len s
  | encind lt len => exact runsExactlyWhen_encode .ind lt len s
  | encrsp lt len => exact runsExactlyWhen_encode .rsp lt len s
  | sethdr v e lt =>
    exact ⟨fun h => ⟨_, execSethdr_ready h⟩, fun h => ⟨_, execSethdr_refused h, frameReason_named s⟩⟩
  | hdrwr code b =>
    exact ⟨fun h => ⟨_, execHdrwr_ready h⟩, fun h => ⟨_, execHdrwr_refused h, frameReason_named s⟩⟩
  | declt => exact runsExactlyWhen_decode s (by simp)
  | decvar => exact runsExactlyWhen_decode s (by simp)
  | decent => exact runsExactlyWhen_decode s (by simp)
  | decoff => exact runsExactlyWhen_decode s (by simp)
  | copy n => exact ⟨fun h => ⟨_, execCopy_ready h⟩, fun h => ⟨_, execCopy_refused h, State.refusal_cases _ s⟩⟩
  | _ => exact runsExactlyWhen_true rfl

/-! ### The body -/

/-- A body that is not there is refused by every operation that is given one, for the same reason. -/
theorem refused_of_body {len : Half} {s : State} (h : ¬ s.BodyReady len.toNat) (v : Variant) (lt : Half) :
    exec (encodeInstr v lt len) s = .refused (s.refusal len.toNat) ∧
      exec (.copy len) s = .refused (s.refusal len.toNat) :=
  ⟨exec_encode_refused fun hready => h hready.1, execCopy_refused fun hready => h hready.1⟩

/-- Settles O40: the overlap is the first reason of `State.refusal`. -/
theorem overlappingBodyIsRefused : Obligations.OverlappingBodyIsRefused := by
  unfold Obligations.OverlappingBodyIsRefused
  intro v lt len s hoverlap
  have hbody : ¬ s.BodyReady len.toNat := fun h => Bool.false_ne_true (h.1.symm.trans hoverlap)
  have hreason : s.refusal len.toNat = .bodyOverlapsFrame := if_pos hoverlap
  exact hreason ▸ refused_of_body hbody v lt

/-- Settles O43: a short body is the second reason of `State.refusal`, and one of exactly the length is there. -/
theorem shortBodyIsRefused : Obligations.ShortBodyIsRefused := by
  unfold Obligations.ShortBodyIsRefused
  intro v lt len s hdisjoint
  constructor
  · intro hshort
    have hbody : ¬ s.BodyReady len.toNat := fun h => Nat.not_le.mpr hshort h.2
    have hoverlap : ¬ s.bodyOverlaps len.toNat = true := Bool.eq_false_iff.mp hdisjoint
    have hreason : s.refusal len.toNat = .bodyTooShort := by rw [State.refusal, if_neg hoverlap, if_pos hshort]
    exact hreason ▸ refused_of_body hbody v lt
  · intro hlength hframe
    have hbody : s.BodyReady len.toNat := ⟨hdisjoint, hlength.ge⟩
    have hheader : s.FrameReady 5 := ⟨hframe.1, by omega⟩
    exact ⟨⟨_, exec_encode_ready ⟨hbody, hheader, fun _ => hframe⟩⟩, _, execCopy_ready ⟨hbody, .inr hframe⟩⟩

/-! ### The FRAME -/

/-- An encode operation whose body is there is refused for what keeps its FRAME accesses from being made. -/
theorem exec_encode_noRoom {v : Variant} {lt len : Half} {s : State} (hbody : s.BodyReady len.toNat)
    (h : ¬ s.EncodeReady v lt len) : exec (encodeInstr v lt len) s = .refused (frameReason s) :=
  (exec_encode_refused h).trans (congrArg _ (State.refusal_frame hbody))

/-- COPY of one byte or more whose body is there is refused likewise. -/
theorem exec_copy_noRoom {n : Half} {s : State} (hbody : s.BodyReady n.toNat) (hn : 0 < n.toNat)
    (h : ¬ s.FrameReady (5 + n.toNat)) : exec (.copy n) s = .refused (frameReason s) :=
  (execCopy_refused fun hready => hready.2.elim hn.ne' h).trans (congrArg _ (State.refusal_frame hbody))

/-- Settles O41: a shared FRAME is ready for no access, and it is the reason named. -/
theorem sharedFrameIsRefused : Obligations.SharedFrameIsRefused := by
  unfold Obligations.SharedFrameIsRefused
  intro x y z v s hshared
  have hreason : frameReason s = .frameShared := if_pos hshared
  have hframe : ∀ n, ¬ s.FrameReady n := fun n h => Bool.false_ne_true (h.1.symm.trans hshared)
  have hdecode : ∀ i ∈ [Instr.declt, .decvar, .decent, .decoff], exec i s = .refused .frameShared :=
    fun i hi => hreason ▸ exec_decode_refused hi (hframe 3)
  refine ⟨hreason ▸ execHdrwr_refused (hframe 5), hreason ▸ execSethdr_refused (hframe 5), fun hbody => ?encode,
    fun hy hbody => ?copy, hdecode _ (by simp), hdecode _ (by simp), hdecode _ (by simp), hdecode _ (by simp)⟩
  case encode => exact hreason ▸ exec_encode_noRoom hbody fun h => hframe 5 h.2.1
  case copy => exact hreason ▸ exec_copy_noRoom hbody hy (hframe _)

/-- Settles O42: a FRAME that one agent uses is ready for an access only as far as it reaches. -/
theorem smallFrameIsRefused : Obligations.SmallFrameIsRefused := by
  unfold Obligations.SmallFrameIsRefused
  intro x y z v s hshared
  have hreason : frameReason s = .outsideFrame := if_neg (Bool.eq_false_iff.mp hshared)
  have hframe : ∀ {n}, s.frame.size < n → ¬ s.FrameReady n := fun hsmall h => Nat.not_le.mpr hsmall h.2
  refine ⟨fun hsmall => ⟨?hdrwr, ?sethdr, fun hbody => ?header⟩, fun hsmall hbody => ⟨fun hfn => ?body, fun hy => ?copy⟩,
    fun hsmall => ?code⟩
  case hdrwr => exact hreason ▸ execHdrwr_refused (hframe hsmall)
  case sethdr => exact hreason ▸ execSethdr_refused (hframe hsmall)
  case header => exact hreason ▸ exec_encode_noRoom hbody fun h => hframe hsmall h.2.1
  case body => exact hreason ▸ exec_encode_noRoom hbody fun h => hframe hsmall (h.2.2 hfn)
  case copy => exact hreason ▸ exec_copy_noRoom hbody hy (hframe hsmall)
  case code =>
    have hdecode : ∀ i ∈ [Instr.declt, .decvar, .decent, .decoff], exec i s = .refused .outsideFrame :=
      fun i hi => hreason ▸ exec_decode_refused hi (hframe hsmall)
    exact ⟨hdecode _ (by simp), hdecode _ (by simp), hdecode _ (by simp), hdecode _ (by simp)⟩

end Sys2Proof.Proofs
end

section
/-!
PROOF of O5, O8 and O10 to O15 (`40_pack_unpack.md` R105, `41_translate.md` R113, R117, R119, R120, `00_scope.md` R11,
`30_encoding.md` R74, R93): how PACK, the two translations and the version gate fit together.
-/
namespace Sys2Proof.Proofs
open Sys2Proof Sys2Proof.Machine

/-! ### PACK and its inverses -/

theorem upVariant_packCode (v e o : Half) : upVariant (packCode v e o) = v.setWidth 2 := by
  apply BitVec.eq_of_toNat_eq
  rw [upVariant_toNat, packCode_toNat, BitVec.toNat_setWidth]
  omega

theorem upEntity_packCode (v e o : Half) : upEntity (packCode v e o) = e.setWidth 3 := by
  apply BitVec.eq_of_toNat_eq
  rw [upEntity_toNat, packCode_toNat, BitVec.toNat_setWidth]
  omega

theorem upOffset_packCode (v e o : Half) : upOffset (packCode v e o) = o.setWidth 11 := by
  apply BitVec.eq_of_toNat_eq
  rw [upOffset_toNat, packCode_toNat, BitVec.toNat_setWidth]
  omega

/-- A code is its three fields: PACK joins again what was unpacked. -/
theorem packCode_unpack (k : Half) :
    packCode ((upVariant k).setWidth 16) ((upEntity k).setWidth 16) ((upOffset k).setWidth 16) = k := by
  have hk := k.isLt
  apply BitVec.eq_of_toNat_eq
  rw [packCode_toNat, BitVec.toNat_setWidth_of_le (by decide), BitVec.toNat_setWidth_of_le (by decide),
    BitVec.toNat_setWidth_of_le (by decide), upVariant_toNat, upEntity_toNat, upOffset_toNat]
  omega

/-- PACK sees its operands through their masks alone. -/
theorem packCode_congr {v e o v' e' o' : Half} (hv : v.toNat % 4 = v'.toNat % 4) (he : e.toNat % 8 = e'.toNat % 8)
    (ho : o.toNat % 2048 = o'.toNat % 2048) : packCode v e o = packCode v' e' o' := by
  apply BitVec.eq_of_toNat_eq
  rw [packCode_toNat, packCode_toNat, hv, he, ho]

/-- Settles O5: each direction by its lemma; variants 0 and 4 have one masked value. -/
theorem packUnpackLaws : Obligations.PackUnpackLaws := by
  unfold Obligations.PackUnpackLaws
  refine ⟨fun v e o => ⟨upVariant_packCode v e o, upEntity_packCode v e o, upOffset_packCode v e o⟩, packCode_unpack,
    fun v e o v' e' o' => packCode_congr, 0, 4, 0, 0, by decide, packCode_congr (by decide) rfl rfl⟩

/-! ### The forward translation -/

/-- A code whose variant bits are 0 is PACK of its entity and offset; a variant filled in takes the place of those bits. -/
theorem mkCode_eq_packCode (k : Config) (v lt : Half) :
    mkCode k v lt = packCode v ((lt2ent k lt).setWidth 16) ((lt2off k lt).setWidth 16) := by
  have hcode := (lt2wcCode k lt).isLt
  have hfour := four_dvd_wireNumber k lt.toNat
  rw [lt2wcCode_toNat] at hcode
  apply BitVec.eq_of_toNat_eq
  rw [mkCode_toNat, packCode_toNat, BitVec.toNat_setWidth_of_le (by decide), BitVec.toNat_setWidth_of_le (by decide),
    lt2ent, lt2off, upEntity_toNat, upOffset_toNat, lt2wcCode_toNat]
  omega

/-- Settles O8: the equality is `mkCode_eq_packCode`; the misuse is about closed codes, under every mode of SETHDR. -/
theorem combinedCodeIsPackOfDerivedFields : Obligations.CombinedCodeIsPackOfDerivedFields := by
  unfold Obligations.CombinedCodeIsPackOfDerivedFields
  exact ⟨mkCode_eq_packCode, by decide, fun m => by cases m <;> decide⟩

/-- Settles O15: a combined code is the forward rule's number plus the variant (`mkCode_toNat`), and the forward rule computes
under the reference parameters, whose SETHDR mode it does not look at. -/
theorem wireCodesOfAllLogicalTypes : Obligations.WireCodesOfAllLogicalTypes := by
  unfold Obligations.WireCodesOfAllLogicalTypes
  intro m v
  have hcode : ∀ t ∈ List.range 18, (mkCode (referenceConfig m) (variantCode v) (BitVec.ofNat 16 t)).toNat =
      wireNumber (referenceConfig m) t + (variantCode v).toNat := by
    intro t ht
    have ht : t < 18 := List.mem_range.mp ht
    rw [mkCode_toNat, Nat.mod_eq_of_lt (variantCode_lt v), BitVec.toNat_ofNat, Nat.mod_eq_of_lt (by omega)]
  rw [List.map_congr_left hcode]
  simp [List.range_succ, wireNumber, offsetNumber, referenceConfig]

theorem wireNumber_zero (k : Config) : wireNumber k 0 = k.eStaCco.toNat * 8192 + 5 * 4 := rfl

theorem wireNumber_of_defined (k : Config) {lt : Nat} (h0 : lt ≠ 0) (hlt : lt ≤ 16) :
    wireNumber k lt = k.eStaSta.toNat * 8192 + offsetNumber lt * 4 := by
  rw [wireNumber, if_neg (by omega), if_neg h0]

/-- The derived offsets end with that of ATTEN_PROFILE (R11). -/
theorem offsetNumber_le {lt : Nat} (hlt : lt ≤ 16) : offsetNumber lt ≤ 0x21 := by
  unfold offsetNumber
  split_ifs <;> omega

theorem offsetNumber_pos {lt : Nat} (h0 : lt ≠ 0) : 0 < offsetNumber lt := by
  unfold offsetNumber
  split_ifs <;> omega

/-- The offset that the forward translation derives, as a number (R11, R112). -/
theorem lt2off_toNat (k : Config) (lt : Half) :
    (lt2off k lt).toNat = if 17 ≤ lt.toNat then 0 else if lt = 0 then 0x05 else offsetNumber lt.toNat := by
  rw [lt2off, upOffset_toNat, lt2wcCode_toNat]
  split_ifs with h17 h0
  · rw [wireNumber, if_pos h17]
  · have hzero : lt.toNat = 0 := congrArg BitVec.toNat h0
    rw [hzero, wireNumber_zero]
    omega
  · have hne : lt.toNat ≠ 0 := fun h => h0 (BitVec.eq_of_toNat_eq h)
    have hfit := offsetNumber_lt (show lt.toNat ≤ 16 by omega)
    rw [wireNumber_of_defined k hne (by omega)]
    omega

theorem lt2off_le (k : Config) (lt : Half) : (lt2off k lt).toNat ≤ 0x21 := by
  rw [lt2off_toNat]
  split_ifs with h17 h0
  · decide
  · decide
  · exact offsetNumber_le (by omega)

/-- Every defined type has an offset that is not 0, so only an out-of-range one has the zero wire code (R112). -/
theorem wireNumber_eq_zero_iff (k : Config) (lt : Nat) : wireNumber k lt = 0 ↔ 17 ≤ lt := by
  unfold wireNumber
  split_ifs with h17 h0
  · exact iff_of_true rfl h17
  · exact iff_of_false (by simp) h17
  · have hpos := offsetNumber_pos h0
    exact iff_of_false (by omega) h17

/-! ### The inverse translation -/

theorem typeNumber_staSta {k : Config} {code : Nat} (hentity : code / 8192 = k.eStaSta.toNat)
    (hdiscover : ¬ (k.eStaSta.toNat = k.eStaCco.toNat ∧ code / 4 % 2048 = 5)) :
    typeNumber k code = bandNumber (code / 4 % 2048) := by
  rw [typeNumber, hentity, if_neg hdiscover, if_pos rfl]

/-- R7 (a) for the two entities that have logical types. -/
theorem legal_staSta_ne_staCco {k : Config} (hk : k.legal = true) : k.eStaSta ≠ k.eStaCco := by
  simp only [Config.legal, Config.entityCodesDistinct, Bool.and_eq_true, decide_eq_true_eq, List.nodup_cons,
    List.mem_cons, not_or] at hk
  obtain ⟨⟨⟨⟨⟨-, -, hne, -⟩, -⟩, -⟩, -⟩, -⟩ := hk
  exact fun h => hne h.symm

theorem bandNumber_le {o : Nat} (ho : o < 2048) : bandNumber o ≤ 2030 := by
  unfold bandNumber
  split_ifs <;> omega

theorem typeNumber_le (k : Config) (code : Nat) : typeNumber k code ≤ 2030 := by
  unfold typeNumber
  split_ifs
  · decide
  · exact bandNumber_le (Nat.mod_lt _ (by decide))
  · decide

/-- The offsets at which a type has its code (R117). -/
abbrev CanonicalOffset (o : Nat) : Prop :=
  (1 ≤ o ∧ o ≤ 3) ∨ o = 0x08 ∨ o = 0x0E ∨ o = 0x10 ∨ o = 0x12 ∨ (0x19 ≤ o ∧ o ≤ 0x21)

/-- The band test gives a type in range up to the last canonical offset, and 0 at offset 0 alone. -/
theorem bandNumber_range (o : Nat) : (bandNumber o ≤ 16 ↔ o ≤ 0x21) ∧ (bandNumber o = 0 ↔ o = 0) := by
  unfold bandNumber
  split_ifs <;> omega

/-- Going from an offset to its type and back moves every offset that is not canonical. -/
theorem offsetNumber_bandNumber_iff {o : Nat} (h0 : 0 < o) (hmax : o ≤ 0x21) :
    offsetNumber (bandNumber o) = o ↔ CanonicalOffset o := by
  interval_cases o <;> decide

/-- Which codes under E_STA_STA the forward rule gives back. Offset 0 has the type DISCOVER_LIST, whose code has offset 5; past
the last type the forward rule gives 0, whose offset is 0. -/
theorem wireNumber_bandNumber_iff (k : Config) {o : Nat} (ho : o < 2048) :
    wireNumber k (bandNumber o) = k.eStaSta.toNat * 8192 + o * 4 ↔ CanonicalOffset o := by
  obtain ⟨hrange, hzero⟩ := bandNumber_range o
  by_cases h0 : o = 0
  · subst h0
    rw [hzero.mpr rfl, wireNumber_zero]
    omega
  by_cases hmax : o ≤ 0x21
  · rw [wireNumber_of_defined k (mt hzero.mp h0) (hrange.mpr hmax), ← offsetNumber_bandNumber_iff (Nat.pos_of_ne_zero h0) hmax]
    omega
  · have h17 : 17 ≤ bandNumber o := Nat.lt_of_not_le (mt hrange.mp hmax)
    rw [(wireNumber_eq_zero_iff k _).mpr h17]
    omega

/-- Settles O10: under E_STA_STA the type is that of the band test (`typeNumber_staSta`), and the code comes back from it at the
canonical offsets only (`wireNumber_bandNumber_iff`). -/
theorem inverseUnderStaStaByOffset : Obligations.InverseUnderStaStaByOffset := by
  unfold Obligations.InverseUnderStaStaByOffset
  intro k o hk code
  have ho := o.isLt
  have hne : k.eStaSta.toNat ≠ k.eStaCco.toNat := mt BitVec.eq_of_toNat_eq (legal_staSta_ne_staCco hk)
  have hoffset : (o.setWidth 16).toNat = o.toNat := BitVec.toNat_setWidth_of_le (by decide)
  have hcode : code.toNat = k.eStaSta.toNat * 8192 + o.toNat * 4 := by
    rw [← hoffset]
    exact wireCode_toNat _ (by omega)
  have htype : (wc2ltType k code).toNat = bandNumber o.toNat := by
    have hfield : code.toNat / 4 % 2048 = o.toNat := by omega
    rw [wc2ltType_toNat, typeNumber_staSta (by omega) fun h => hne h.1, hfield]
  refine ⟨htype, ?_⟩
  rw [BitVec.toNat_eq, lt2wcCode_toNat, htype, hcode]
  exact wireNumber_bandNumber_iff k ho

/-! ### Codes that go back -/

/-- A code is its two upper fields with its variant filled in. -/
theorem or_variantMask_self (code : Half) : (code &&& 0xFFFC) ||| variantMask code = code := by
  rw [variantMask, ← BitVec.and_or_distrib_left]
  exact BitVec.and_allOnes

/-- Settles O11: if some type has the code's upper fields as its wire code, the code is that type's combined code, and comes back
from it (`forwardThenInverseIsIdentity`). -/
theorem onlyCanonicalCodesGoBack : Obligations.OnlyCanonicalCodesGoBack := by
  unfold Obligations.OnlyCanonicalCodesGoBack
  intro k code hdefined
  refine ⟨fun hback => ⟨_, hdefined, hback⟩, ?_⟩
  rintro ⟨lt, hlt, hwire⟩
  have hcode : mkCode k code lt = code := by rw [mkCode, hwire, or_variantMask_self]
  have hback : wc2ltType k code = lt := by
    rw [← hcode]
    exact forwardThenInverseIsIdentity k lt code hlt
  rw [hback, hwire]

/-! ### Out of range -/

/-- Where the entity is E_STA_STA's and the offset is 0, the band test gives DISCOVER_LIST; other entities have no type there
(R120, R211). -/
theorem typeNumber_of_variant_alone (k : Config) {v : Nat} (hv : v < 4) :
    typeNumber k v = if k.eStaSta = 0 then 0 else 17 := by
  have hentity : v / 8192 = 0 := by omega
  have hoffset : v / 4 % 2048 = 0 := by omega
  have hsta : 0 = k.eStaSta.toNat ↔ k.eStaSta = 0 := by
    rw [BitVec.toNat_eq, eq_comm]
    rfl
  rw [typeNumber, hentity, hoffset, if_neg (by omega)]
  simp only [hsta]
  rfl

/-- Settles O12: an out-of-range type has the wire code 0, so the combined code is the variant alone
(`typeNumber_of_variant_alone`). -/
theorem outOfRangeTypeDecodesToSentinel : Obligations.OutOfRangeTypeDecodesToSentinel := by
  unfold Obligations.OutOfRangeTypeDecodesToSentinel
  intro k lt v hlt
  have hcode : (mkCode k v lt).toNat = v.toNat % 4 := by
    rw [mkCode_toNat, (wireNumber_eq_zero_iff k _).mpr hlt, Nat.zero_add]
  have htype : (wc2ltType k (mkCode k v lt)).toNat = if k.eStaSta = 0 then 0 else 17 := by
    rw [wc2ltType_toNat, hcode, typeNumber_of_variant_alone k (Nat.mod_lt _ (by decide))]
  refine ⟨lt2wcCode_sentinel k hlt, hcode, fun hsta => ?sentinel, fun hsta => ?discoverList⟩
  case sentinel => exact BitVec.eq_of_toNat_eq (htype.trans (if_neg hsta))
  case discoverList => exact BitVec.eq_of_toNat_eq (htype.trans (if_pos hsta))

/-! ### Ranges -/

/-- The largest type that the inverse translation gives: E_STA_STA at the largest offset (R11, R117). -/
theorem exists_wc2ltType_max (k : Config) : ∃ code : Half, (wc2ltType k code).toNat = 2030 := by
  have hsta := k.eStaSta.isLt
  refine ⟨BitVec.ofNat 16 (k.eStaSta.toNat * 8192 + 2047 * 4), ?_⟩
  rw [wc2ltType_toNat, BitVec.toNat_ofNat, Nat.mod_eq_of_lt (by omega), typeNumber_staSta (by omega) (by omega),
    show (k.eStaSta.toNat * 8192 + 2047 * 4) / 4 % 2048 = 2047 by omega]
  rfl

/-- Settles O13: each sum of the model is the number of its rule (`lt2off_toNat`, `lt2wcCode_toNat`, `wc2ltType_toNat`,
`dispatchLookup_total_toNat`), and the bounds are those of the numbers. -/
theorem resultsStayInRange : Obligations.ResultsStayInRange := by
  unfold Obligations.ResultsStayInRange
  refine ⟨fun k lt => ⟨lt2off_toNat k lt, lt2off_le k lt, lt2wcCode_toNat k lt, ?wireBound, ?zeroWire⟩,
    fun k code => ⟨wc2ltType_toNat k code, typeNumber_le k _⟩,
    fun k v lt len => ⟨dispatchLookup_total_toNat .., ?totalBound, dispatchLookup_total_of_copy⟩,
    fun k _ => exists_wc2ltType_max k⟩
  case wireBound =>
    rw [← lt2wcCode_toNat]
    exact Nat.le_of_lt_succ (lt2wcCode k lt).isLt
  case zeroWire =>
    rw [BitVec.toNat_eq, lt2wcCode_toNat]
    exact wireNumber_eq_zero_iff k _
  case totalBound =>
    have hn := (dispatchLookup k v lt len).n.isLt
    rw [dispatchLookup_total_toNat]
    omega

/-! ### Reserved values of a code -/

theorem wc2ltType_of_other_entity {k : Config} {code : Half} (hcco : upEntity code ≠ k.eStaCco)
    (hsta : upEntity code ≠ k.eStaSta) : wc2ltType k code = 17 := by
  rw [wc2ltType, if_neg fun h => hcco h.1, if_neg hsta]
  rfl

/-- E_STA_CCO has a type at offset 5 only, since it is not E_STA_STA (R7 (a), R116). -/
theorem wc2ltType_of_staCco {k : Config} (hne : k.eStaSta ≠ k.eStaCco) {code : Half} (hcco : upEntity code = k.eStaCco) :
    wc2ltType k code = if upOffset code = 5 then 0 else 17 := by
  have hsta : ¬ upEntity code = k.eStaSta := fun h => hne (h.symm.trans hcco)
  simp only [wc2ltType, hcco, true_and, if_neg (hcco ▸ hsta)]
  rfl

theorem versionFor_of_ungated {k : Config} {e : Half} (hvendor : e.toNat ≠ k.eVendor.toNat)
    (hmanufacture : e.toNat ≠ k.eManufacture.toNat) : versionFor k e = k.protoVersion := by
  apply BitVec.eq_of_toNat_eq
  rw [versionFor_toNat, versionNumber, if_neg (by simp [hvendor, hmanufacture])]

/-- The gate compares entity fields as it compares operands. -/
theorem versionFor_field_eq_zero_iff {k : Config} (hk : k.legal = true) (e : BitVec 3) :
    versionFor k (e.setWidth 16) = 0 ↔ e = k.eVendor ∨ e = k.eManufacture := by
  have he : (e.setWidth 16).toNat = e.toNat := BitVec.toNat_setWidth_of_le (by decide)
  have hgate := versionNumber_eq_zero_iff hk (e.setWidth 16).toNat
  rw [← versionFor_toNat, he] at hgate
  rw [BitVec.toNat_eq, BitVec.toNat_eq (x := e), BitVec.toNat_eq (x := e)]
  exact hgate

/-- Settles O14: PACK keeps the entity field (`upEntity_packCode`); the inverse translation and the gate compare that field with
the entity codes (`wc2ltType_of_other_entity`, `wc2ltType_of_staCco`, `versionFor_field_eq_zero_iff`). -/
theorem reservedCodeValuesAreDefined : Obligations.ReservedCodeValuesAreDefined := by
  unfold Obligations.ReservedCodeValuesAreDefined
  intro k code hk
  have hne := legal_staSta_ne_staCco hk
  refine ⟨fun v e o he hunnamed => ?unnamed, upEntity_toNat code, wc2ltType_of_other_entity,
    fun hcco => ⟨fun h5 => ?discover, fun h5 => ?other⟩, (versionFor_field_eq_zero_iff hk _).symm⟩
  case discover => rw [wc2ltType_of_staCco hne hcco, if_pos h5]
  case other => rw [wc2ltType_of_staCco hne hcco, if_neg h5]
  case unnamed =>
    simp only [List.mem_cons, List.not_mem_nil, or_false, not_or] at hunnamed
    obtain ⟨hcco, -, -, hsta, hmanufacture, hvendor⟩ := hunnamed
    have hfield : (e.setWidth 3).toNat = e.toNat := by
      rw [BitVec.toNat_setWidth]
      exact Nat.mod_eq_of_lt he
    have hentity : (upEntity (packCode v e o)).toNat = e.toNat := by rw [upEntity_packCode, hfield]
    refine ⟨by rw [← upEntity_toNat, hentity], hentity, ?_, ?_⟩
    · exact wc2ltType_of_other_entity (upEntity_packCode v e o ▸ hcco) (upEntity_packCode v e o ▸ hsta)
    · exact versionFor_of_ungated (fun h => hvendor (BitVec.eq_of_toNat_eq (hfield.trans h)))
        (fun h => hmanufacture (BitVec.eq_of_toNat_eq (hfield.trans h)))

end Sys2Proof.Proofs
end

section
/-!
PROOF of O17 to O19, O30 and O31 (`42_dispatch.md` R134, R138, R139, R141, `10_state.md` R35, `30_encoding.md` R86, R87,
`70_reset_and_hazards.md` R209): the tables' records, what a legal dispatch table settles and leaves open, and the two function
kinds run alone.
-/
namespace Sys2Proof.Proofs
open Sys2Proof Sys2Proof.Machine

/-! ### The records of the tables -/

theorem bandBits_toNat (e : BandRecord) :
    (bandBits e).toNat = e.anchor.toNat * 16384 + e.origin.toNat * 8 + e.entity.toNat := by
  have hanchor := e.anchor.isLt
  have horigin := e.origin.isLt
  have hentity := e.entity.isLt
  have ha : (e.anchor.setWidth 19).toNat = e.anchor.toNat := BitVec.toNat_setWidth_of_le (by decide)
  have ho : (e.origin.setWidth 19).toNat = e.origin.toNat := BitVec.toNat_setWidth_of_le (by decide)
  have he : (e.entity.setWidth 19).toNat = e.entity.toNat := BitVec.toNat_setWidth_of_le (by decide)
  have hlow : (e.origin.setWidth 19 <<< 3 ||| e.entity.setWidth 19).toNat = e.origin.toNat * 8 + e.entity.toNat := by
    rw [toNat_shiftLeft_or] <;> omega
  rw [bandBits, BitVec.or_assoc, toNat_shiftLeft_or] <;> omega

theorem fnCode_toNat (f : FnKind) : (fnCode f).toNat = if f = .copy then 1 else 0 := by
  cases f <;> rfl

theorem dispBits_toNat (e : DispRecord) :
    (dispBits e).toNat = e.variant.toNat * 64 + e.lt.toNat * 2 + (if e.fn = .copy then 1 else 0) := by
  have hvariant := e.variant.isLt
  have htype := e.lt.isLt
  have hkind := (fnCode e.fn).isLt
  have hv : (e.variant.setWidth 8).toNat = e.variant.toNat := BitVec.toNat_setWidth_of_le (by decide)
  have ht : (e.lt.setWidth 8).toNat = e.lt.toNat := BitVec.toNat_setWidth_of_le (by decide)
  have hf : ((fnCode e.fn).setWidth 8).toNat = (fnCode e.fn).toNat := BitVec.toNat_setWidth_of_le (by decide)
  have hlow : (e.lt.setWidth 8 <<< 1 ||| (fnCode e.fn).setWidth 8).toNat = e.lt.toNat * 2 + (fnCode e.fn).toNat := by
    rw [toNat_shiftLeft_or] <;> omega
  rw [← fnCode_toNat, dispBits, BitVec.or_assoc, toNat_shiftLeft_or] <;> omega

/-- A record of DISPATCH_ROM is read back from its 8 bits (R87). -/
theorem dispOfBits_dispBits (e : DispRecord) : dispOfBits (dispBits e) = e := by
  have hbits := dispBits_toNat e
  have hvariant := e.variant.isLt
  have htype := e.lt.isLt
  have hv : (dispBits e).extractLsb' 6 2 = e.variant := by
    apply BitVec.eq_of_toNat_eq
    rw [BitVec.extractLsb'_toNat, Nat.shiftRight_eq_div_pow, hbits]
    split <;> omega
  have ht : (dispBits e).extractLsb' 1 5 = e.lt := by
    apply BitVec.eq_of_toNat_eq
    rw [BitVec.extractLsb'_toNat, Nat.shiftRight_eq_div_pow, hbits]
    split <;> omega
  have hf : (dispBits e).extractLsb' 0 1 = fnCode e.fn := by
    apply BitVec.eq_of_toNat_eq
    rw [BitVec.extractLsb'_toNat, Nat.shiftRight_eq_div_pow, hbits, fnCode_toNat]
    split <;> omega
  rw [dispOfBits, hv, ht, hf]
  obtain ⟨variant, lt, fn⟩ := e
  cases fn <;> rfl

/-- Settles O31: the layouts are sums of the fields (`bandBits_toNat`, `dispBits_toNat`), and the records are written out. -/
theorem tablesHoldTheSpecsRecords : Obligations.TablesHoldTheSpecsRecords := by
  unfold Obligations.TablesHoldTheSpecsRecords
  refine ⟨fun k => ⟨rfl, fun e he => ?_⟩, bandBits_toNat, fun e => ⟨dispBits_toNat e, dispOfBits_dispBits e⟩, fun m => ?_⟩
  · simp only [bandRom, List.mem_cons, List.not_mem_nil, or_false] at he
    obtain rfl | rfl | rfl | rfl | rfl := he <;> rfl
  · rfl

/-! ### Legal tables -/

/-- The reference parameters with a table that begins with (request, SLAC_PARM). -/
def tableConfig (rest : List DispRecord) : Config :=
  { referenceConfig .modeA with dispatchRom := ⟨0, 8, .copy⟩ :: rest }

/-- Such a table is legal where its further entries are FN_COPY ones with types in range other than VALIDATE (R133). -/
theorem tableConfig_legal {rest : List DispRecord} (h : ∀ e ∈ rest, e.lt ≠ 13 ∧ e.fn = .copy ∧ e.lt ≤ 16) :
    (tableConfig rest).legal = true := by
  have hvalidate : rest.all (fun e => e.lt != 13) = true := List.all_eq_true.mpr fun e he => bne_iff_ne.mpr (h e he).1
  have hcopy : rest.all (fun e => e.fn == .copy) = true := List.all_eq_true.mpr fun e he => beq_iff_eq.mpr (h e he).2.1
  have hrange : rest.all (fun e => decide (e.lt ≤ 16)) = true :=
    List.all_eq_true.mpr fun e he => decide_eq_true (h e he).2.2
  have hrom : (tableConfig rest).romWellFormed = true := by
    simp only [Config.romWellFormed, Config.romHasSlacParmRequest, Config.romLacksValidate, Config.romAllCopy,
      Config.romInEnumeration, Config.romNotEmpty, tableConfig, List.contains_cons, List.all_cons, hvalidate, hcopy, hrange]
    rfl
  rw [Config.legal, hrom]
  rfl

/-- Every legal table has the pair (request, SLAC_PARM) (R133 (a)). -/
theorem dispatchLookup_hit_of_slacParmRequest {k : Config} (hk : k.legal = true) (len : Half) :
    (dispatchLookup k 0 8 len).hit = true := by
  simp only [Config.legal, Config.romWellFormed, Config.romHasSlacParmRequest, Bool.and_eq_true,
    List.contains_iff_mem] at hk
  obtain ⟨-, ⟨⟨⟨hmem, -⟩, -⟩, -⟩, -⟩ := hk
  exact dispatchLookup_hit_iff.mpr ⟨_, hmem, rfl, rfl⟩

/-- Settles O17: R133 settles the known pairs, and for an open one `tableConfig` gives a legal table with that pair and a legal
table without it. -/
theorem dispatchKnownAndOpenPairs : Obligations.DispatchKnownAndOpenPairs := by
  unfold Obligations.DispatchKnownAndOpenPairs
  refine ⟨fun k v lt len hk => ⟨?known, fun hout => ?misses⟩, fun k k' v lt len hrom => ?table,
    fun v lt len hv hlt hvalidate hopen => ⟨?hits, ?missed⟩⟩
  case known =>
    have hhit := dispatchLookup_hit_of_slacParmRequest hk len
    exact ⟨hhit, dispatchLookup_total_of_copy ((dispatchLookup_hit_iff_copy hk _ _ _).mp hhit)⟩
  case misses =>
    have hmiss : (dispatchLookup k v lt len).hit = false := by
      obtain rfl | hlt | hv := hout
      · exact dispatchLookup_miss_of_type hk v len (.inl rfl)
      · exact dispatchLookup_miss_of_type hk v len (.inr hlt)
      · exact dispatchLookup_miss_of_variant k lt len hv
    exact ⟨hmiss, dispatchLookup_total_of_nop (dispatchLookup_fn_of_miss hmiss)⟩
  case table => simp only [dispatchLookup, hrom]
  case hits =>
    have hv' : (v.setWidth 2).toNat = v.toNat := by
      rw [BitVec.toNat_setWidth]
      omega
    have hlt' : (lt.setWidth 5).toNat = lt.toNat := by
      rw [BitVec.toNat_setWidth]
      omega
    have h13 : lt.setWidth 5 ≠ 13 := fun h => hvalidate (BitVec.eq_of_toNat_eq (by rw [← hlt', h]; rfl))
    have h16 : lt.setWidth 5 ≤ 16 := BitVec.le_def.mpr (hlt'.trans_le hlt)
    refine ⟨tableConfig [⟨v.setWidth 2, lt.setWidth 5, .copy⟩], tableConfig_legal fun e he => ?_,
      dispatchLookup_hit_iff.mpr ⟨_, List.mem_cons_of_mem _ (List.mem_singleton_self _), hv'.symm, hlt'.symm⟩⟩
    obtain rfl := List.mem_singleton.mp he
    exact ⟨h13, rfl, h16⟩
  case missed =>
    refine ⟨tableConfig [], tableConfig_legal (by simp), ?_⟩
    rw [← Bool.not_eq_true, dispatchLookup_hit_iff]
    rintro ⟨e, he, hvariant, htype⟩
    obtain rfl : e = ⟨0, 8, .copy⟩ := List.mem_singleton.mp he
    exact hopen ⟨BitVec.eq_of_toNat_eq hvariant, BitVec.eq_of_toNat_eq htype⟩

/-! ### COPY and NOP -/

/-- Settles O18: COPY ends in `State.copied`, whose every byte and access is known (`State.copied_read`, `State.copied_bus`). -/
theorem copyMovesBodyVerbatim : Obligations.CopyMovesBodyVerbatim := by
  unfold Obligations.CopyMovesBodyVerbatim
  intro n s hready
  refine ⟨rfl, _, execCopy_ready hready, fun i hi => ?moved, fun a ha => ?kept, ?accesses,
    onResultPort_toNat n (by decide), rfl, by simp [KeepsRest]⟩
  case moved =>
    rw [State.answer_frame, State.copied_read, if_pos ⟨by omega, by omega⟩, Nat.add_sub_cancel_left, State.start_body]
  case kept => rw [State.answer_frame, State.copied_read, if_neg (by omega), State.start_frame]
  case accesses =>
    rw [State.answer_bus, State.copied_bus, State.start_bus, List.nil_append]
    rfl

/-- Settles O19: row 0 of format FN takes no operand, and NOP only answers. -/
theorem nopTouchesNothing : Obligations.NopTouchesNothing := by
  unfold Obligations.NopTouchesNothing
  exact fun n s => ⟨rfl, completesWith_of_answer (x := 0) rfl⟩

/-! ### Operands that are not masked -/

/-- An operand above 7 is no entity's code, so the version is not gated. -/
theorem versionFor_of_wide {k : Config} {e : Half} (he : 8 ≤ e.toNat) : versionFor k e = k.protoVersion := by
  have hvendor := k.eVendor.isLt
  have hmanufacture := k.eManufacture.isLt
  exact versionFor_of_ungated (by omega) (by omega)

/-- Settles O30: no entity code and no variant of an entry is as wide as the operand compared with it (`versionFor_of_wide`,
`dispatchLookup_miss_of_variant`), while PACK sees the masked operands alone (`packCode_congr`). -/
theorem comparisonsDoNotMask : Obligations.ComparisonsDoNotMask := by
  unfold Obligations.ComparisonsDoNotMask
  refine ⟨fun e s he => ?versel, fun v lt len s hv => ?disp, fun v e o s => ?pack⟩
  case versel => exact completesWith_of_onResultPort (by decide) (congrArg BitVec.toNat (versionFor_of_wide he)) rfl
  case disp =>
    have hmiss := dispatchLookup_miss_of_variant s.cfg lt len hv
    exact ⟨_, rfl, hmiss, dispatchLookup_total_of_nop (dispatchLookup_fn_of_miss hmiss)⟩
  case pack =>
    have hmasked : packCode (variantMask v) (entityMask e) o = packCode v e o :=
      packCode_congr (by rw [variantMask_toNat, Nat.mod_mod]) (by rw [entityMask_toNat, Nat.mod_mod]) rfl
    exact ⟨_, _, rfl, rfl, congrArg onResultPort hmasked.symm⟩

end Sys2Proof.Proofs
end

section
/-!
PROOF of O24, O27 to O29 and O52 (`20_memory.md` R52, R54, `43_frame_ops.md` R165, `70_reset_and_hazards.md` R206, R207, R210,
R213): an encode operation's accesses counted, what the decode operations and the other byte order make of its header, and what a
dispatch miss leaves.
-/
namespace Sys2Proof.Proofs
open Sys2Proof Sys2Proof.Machine

/-! ### The accesses of an encode operation -/

theorem headerAccesses_length (k : Config) (code : Half) (version : Byte) :
    (headerAccesses k code version).length = 7 := by
  obtain ⟨b1, b2, hwrites⟩ := headerAccesses_eq k code version
  rw [hwrites]
  rfl

/-- COPY reads and writes once for each byte (R213). -/
theorem copyAccesses_length (s : State) (n : Nat) : (copyAccesses s n).length = 2 * n := by
  rw [copyAccesses, List.length_flatMap]
  simp [Nat.mul_comm]

/-- Settles O24: the accesses are those of the header writer and then, on a hit, of COPY (`State.encoded_bus`). -/
theorem encodeAccessesInOrder : Obligations.EncodeAccessesInOrder := by
  unfold Obligations.EncodeAccessesInOrder
  intro v lt len s hready
  refine ⟨s.encoded v lt len, exec_encode_ready hready, State.encoded_bus v lt len s, ?_⟩
  rw [State.encoded_bus, List.length_append, headerAccesses_length]
  split
  · rw [copyAccesses_length]
  · rfl

/-! ### Byte order -/

/-- Settles O28: each order undoes itself (`codeOf_codeBytes`), and the other one joins the two bytes the other way round. -/
theorem byteOrderMustAgree : Obligations.ByteOrderMustAgree := by
  unfold Obligations.ByteOrderMustAgree
  refine ⟨codeOf_codeBytes, fun code => ⟨lowByte code, highByte code, rfl, ?_⟩, 0x64, 0x60, by decide, by decide⟩
  rw [codeOf, join_bytes_toNat, lowByte_toNat, highByte_toNat, Nat.mul_comm]

/-! ### Decoding what was encoded -/

/-- The inverse rule on the combined code of any type: a type in range comes back, the others give the sentinel, whose code has
the entity 0 (R120). -/
theorem typeNumber_wireNumber_add_variant {k : Config} (hsta : k.eStaSta ≠ 0) (lt : Nat) {v : Nat} (hv : v < 4) :
    typeNumber k (wireNumber k lt + v) = if lt ≤ 16 then lt else 17 := by
  split
  case isTrue hlt => exact typeNumber_wireNumber_add k hlt hv
  case isFalse hlt =>
    rw [(wireNumber_eq_zero_iff k lt).mpr (by omega), Nat.zero_add, typeNumber_of_variant_alone k hv, if_neg hsta]

/-- A variant put into a wire code is its variant field and leaves the other two (R113). -/
theorem fields_of_add_variant {wire v : Nat} (hwire : 4 ∣ wire) (hv : v < 4) :
    (wire + v) % 4 = v ∧ (wire + v) / 8192 = wire / 8192 ∧ (wire + v) / 4 % 2048 = wire / 4 % 2048 := by
  omega

/-- Settles O27: the FRAME holds the derived code (`encoded_holdsHeader`), the parameters are as before, and the decode
operations answer its type and fields (O25, O26). -/
theorem encodeThenDecodeRoundTrip : Obligations.EncodeThenDecodeRoundTrip := by
  unfold Obligations.EncodeThenDecodeRoundTrip
  intro v lt len s hsta hready
  have hrest := State.encoded_keepsRest v lt len s
  have hcfg : (s.encoded v lt len).cfg = s.cfg := hrest.1
  have ⟨_, ⟨hshared, hsize⟩, _⟩ := hready
  have hframe : (s.encoded v lt len).FrameReady 3 := frameReady_of_keepsRest hrest ⟨hshared, le_trans (by decide) hsize⟩
  have hv := variantCode_lt v
  have hfour := four_dvd_wireNumber s.cfg lt.toNat
  have hstored : storedCode (s.encoded v lt len) = wireNumber s.cfg lt.toNat + (variantCode v).toNat := by
    obtain ⟨-, hcode, -⟩ := encoded_holdsHeader v lt len s
    rw [hcode, encodedCode_toNat]
  obtain ⟨-, htype⟩ := decltReadsLogicalType 0 0 0 _ hframe
  obtain ⟨-, hvariant, -, hentity, -, hoffset⟩ := decodeReadsRawFields 0 0 0 _ hframe
  rw [hstored] at htype hvariant hentity hoffset
  rw [hcfg, typeNumber_wireNumber_add_variant hsta _ hv] at htype
  obtain ⟨hlow, hhigh, hmiddle⟩ := fields_of_add_variant hfour hv
  rw [hlow] at hvariant
  rw [hhigh] at hentity
  rw [hmiddle] at hoffset
  exact ⟨_, exec_encode_ready hready, htype, hvariant, hentity, hoffset⟩

/-! ### The version byte -/

theorem legal_protoVersion_ne_zero {k : Config} (hk : k.legal = true) : k.protoVersion ≠ 0 := by
  simp only [Config.legal, Config.versionNotZero, Bool.and_eq_true, bne_iff_ne] at hk
  obtain ⟨⟨-, hversion⟩, -⟩ := hk
  exact hversion

/-- The entities under which an encode operation writes are E_STA_CCO, E_STA_STA and, for an out-of-range type, code 0; where
the last is not gated, none is (R210). -/
theorem encodedVersion_of_legal {k : Config} (hk : k.legal = true) (hvendor : k.eVendor ≠ 0)
    (hmanufacture : k.eManufacture ≠ 0) (v : Variant) (lt : Half) : encodedVersion v lt k = k.protoVersion := by
  apply BitVec.eq_of_toNat_eq
  rw [encodedVersion_toNat, encodedCode_toNat]
  by_cases hlt : lt.toNat ≤ 16
  · exact versionNumber_of_derived hk (entity_of_wireNumber_add k hlt (variantCode_lt v))
  · have hv := variantCode_lt v
    have hwire : wireNumber k lt.toNat = 0 := (wireNumber_eq_zero_iff k _).mpr (by omega)
    have hentity : (wireNumber k lt.toNat + (variantCode v).toNat) / 8192 = 0 := by omega
    have hne : ∀ e : BitVec 3, e ≠ 0 → 0 ≠ e.toNat := fun e he h => he (BitVec.eq_of_toNat_eq h.symm)
    rw [hentity, versionNumber, if_neg (not_or.mpr ⟨hne _ hvendor, hne _ hmanufacture⟩)]

/-- Settles O29: the version is PROTO_VERSION (`encodedVersion_of_legal`), and a decode operation reads bytes 1 and 2 alone. -/
theorem versionOnEncodeAndDecode : Obligations.VersionOnEncodeAndDecode := by
  unfold Obligations.VersionOnEncodeAndDecode
  constructor
  · intro v lt len s t hk hvendor hmanufacture hexec
    rw [exec_encodeInstr] at hexec
    obtain ⟨-, rfl⟩ := encodeFrame_ok (conclude_next.mp hexec)
    obtain ⟨hversion, -⟩ := encoded_holdsHeader v lt len s
    have hbyte : (s.encoded v lt len).frame.read 0 = s.cfg.protoVersion :=
      (BitVec.eq_of_toNat_eq hversion).trans (encodedVersion_of_legal hk hvendor hmanufacture v lt)
    exact ⟨hbyte, hbyte ▸ legal_protoVersion_ne_zero hk⟩
  · intro i x s t hi hexec
    obtain ⟨f, hf⟩ := exec_decode hi
    have hready : s.FrameReady 3 := by
      by_contra hno
      rw [exec_decode_refused hi hno] at hexec
      cases hexec
    have hready' : State.FrameReady 3 { s with frame := s.frame.write 0 x } := hready
    have h1 : (s.frame.write 0 x).read 1 = s.frame.read 1 := Space.read_write_other _ _ (by decide)
    have h2 : (s.frame.write 0 x).read 2 = s.frame.read 2 := Space.read_write_other _ _ (by decide)
    rw [hf, decodeFrame_ready f hready] at hexec
    rw [hf, decodeFrame_ready f hready', h1, h2]
    cases hexec
    exact ⟨_, rfl, rfl⟩

/-! ### A dispatch miss -/

/-- An encode operation that misses under a table is ready where it is under another: it writes the header alone. -/
theorem encodeReady_of_miss {v : Variant} {lt len : Half} {s : State} {rom : List DispRecord}
    (h : s.EncodeReady v lt len)
    (hfn : (dispatchLookup { s.cfg with dispatchRom := rom } (variantCode v) lt len).fn = .nop) :
    State.EncodeReady v lt len { s with cfg := { s.cfg with dispatchRom := rom } } := by
  obtain ⟨hbody, hheader, -⟩ := h
  exact ⟨hbody, hheader, fun hcopy => absurd (hfn.symm.trans hcopy) (by decide)⟩

/-- The header does not depend on the table. -/
theorem encoded_header_of_rom (v : Variant) (lt len : Half) (s : State) (rom : List DispRecord) {a : Nat} (ha : a < 5) :
    (State.encoded v lt len { s with cfg := { s.cfg with dispatchRom := rom } }).frame.read a =
      (s.encoded v lt len).frame.read a := by
  rw [State.encoded_read, State.encoded_read, if_neg (by omega), if_neg (by omega)]
  rfl

/-! ### A body of no bytes: hit and miss do the same -/

theorem dispatchLookup_total_of_empty (k : Config) (v lt : Half) : (dispatchLookup k v lt 0).total = 5 := by
  rcases fn_copy_or_nop (dispatchLookup k v lt 0).fn with hfn | hfn
  · exact BitVec.eq_of_toNat_eq (dispatchLookup_total_of_copy hfn)
  · exact dispatchLookup_total_of_nop hfn

theorem encoded_bus_of_empty (v : Variant) (lt : Half) (s : State) :
    (s.encoded v lt 0).bus = headerAccesses s.cfg (encodedCode v lt s.cfg) (encodedVersion v lt s.cfg) := by
  rw [State.encoded_bus]
  split
  · exact List.append_nil _
  · exact List.append_nil _

theorem encoded_read_of_empty (v : Variant) (lt : Half) (s : State) (a : Nat) :
    (s.encoded v lt 0).frame.read a =
      (s.start.headed (encodedCode v lt s.cfg) (encodedVersion v lt s.cfg)).frame.read a := by
  have hzero : (0 : Half).toNat = 0 := rfl
  rw [State.encoded_read, if_neg (by omega)]

/-- Settles O52: a miss leaves everything from address 5 on and answers 5 (`encoded_kept_of_nop`, `dispatchLookup_total_of_nop`), the
header does not depend on the table (`encoded_header_of_rom`), and with no byte to copy a hit does what a miss does. -/
theorem missShowsInTheCountOnly : Obligations.MissShowsInTheCountOnly := by
  unfold Obligations.MissShowsInTheCountOnly
  intro v lt len s rom hready hrom s'
  have hmiss : (dispatchLookup s'.cfg (variantCode v) lt len).hit = false := by
    rw [← Bool.not_eq_true, dispatchLookup_hit_iff]
    rintro ⟨e, he, hanswers⟩
    exact hrom e he hanswers
  have hfn := dispatchLookup_fn_of_miss hmiss
  have htotal := dispatchLookup_total_of_nop hfn
  refine ⟨s.encoded v lt len, s'.encoded v lt len, exec_encode_ready hready,
    exec_encode_ready (encodeReady_of_miss hready hfn), fun a ha => encoded_header_of_rom v lt len s rom ha, rfl, ?ports,
    htotal, encoded_kept_of_nop (s := s') hfn, State.encoded_dp v lt len s, dispatchLookup_total_of_copy, ?empty⟩
  case ports => rw [State.encoded_dp, State.encoded_dp]
  case empty =>
    rintro rfl
    refine ⟨htotal.trans (dispatchLookup_total_of_empty ..).symm, ?_, fun a => ?_⟩
    · rw [encoded_bus_of_empty, encoded_bus_of_empty]
      rfl
    · rw [encoded_read_of_empty, encoded_read_of_empty]
      rfl

end Sys2Proof.Proofs
end
